-- ==== Sys2Proof/Word.lean ====
section
/-! DEFINITION. The data types of the block's registers: bytes, 64-bit words and 16-byte identifiers
(spec/00_scope.md R11, R12; spec/10_state.md R20). Bit 0 is the least significant bit, every value is unsigned,
and `+`, `^^^`, `&&&`, `|||`, `<<<` on `Word` are R12's `+64`, `^`, `&`, `|`, `<<`. -/

namespace Sys2Proof

/-- A byte: 8 bits (R11). -/
abbrev Byte := BitVec 8

/-- A 64-bit word: the width of the host port and of all PRF arithmetic (R7 `W`, R8 `PORTW`). -/
abbrev Word := BitVec 64

/-- A byte offset on the host port: 8 bits (R8 `OFFW`). -/
abbrev Offset := BitVec 8

/-- A 16-byte identifier, byte 0 first (R27, R103). -/
abbrev Ident := Vector Byte 16

end Sys2Proof
end

