-- ==== Sys2Proof/Config.lean ====
section
/-! DEFINITION. What the implementation of the block fixes or leaves open (spec/00_scope.md R8).
The fixed numbers stand here as the spec's table gives them; the OPEN parameters are constants with no body, so that
nothing in Lean can learn a value of them. "No rule of this spec depends on an open parameter" (R8): no definition of the
model reads one (log 6). The algorithm's own constants stand beside the functions that use them, in Machine/. -/

namespace Sys2Proof

/-- A host transaction: a read or a write of one whole register (R61). -/
inductive Transaction where
  /-- `Read(off)`. -/
  | read (off : Offset)
  /-- `Write(off, data)`. -/
  | write (off : Offset) (data : Word)
deriving DecidableEq, Repr

end Sys2Proof

namespace Sys2Proof.Config

/-- `PORTW`: host port data width in bits (R8). -/
def portWidth : Nat := 64

/-- `OFFW`: register offset width in bits (R8). -/
def offsetWidth : Nat := 8

/-- Number of implemented registers, offsets 0x00 to 0x50, stride 8 (R8). -/
def numRegisters : Nat := 11

/-- Number of commands (R8). -/
def numCommands : Nat := 8

/-- Number of hardware contexts (R8). -/
def numContexts : Nat := 1

/-- Number of interrupt outputs (R8). -/
def numInterrupts : Nat := 0

/-- Number of privilege levels (R8). -/
def numPrivilegeLevels : Nat := 1

/-- `PORT_PROTOCOL`, OPEN: the signal-level protocol of the host port (R8, R61). Which wires carry it is not fixed either (R251),
so one sample is the list of the levels of all of the port's wires at one moment. Given the samples since the last transaction
was complete (or since reset), oldest first, it says which transaction is complete with the newest of them, if one is. The only
constraint the spec sets, transactions "one at a time, in order, each completing before the next is accepted" (92, open
parameters), is in this shape: each answer is at most one transaction, read from the samples after the one before. -/
opaque portProtocol : List (List Bool) → Option Transaction

/-- `LATENCY(op)`, OPEN: cycles from acceptance of the transaction `op`, a read or a write of any offset, to its completion;
finite, and nothing else is known (R8, R250). -/
opaque latency : Transaction → Nat

/-- `FCLK`, OPEN: the clock frequency (R8). -/
opaque clockFrequency : Nat

/-- The base address of the register window in the platform's address map, OPEN (R70). -/
opaque baseAddress : Nat

end Sys2Proof.Config
end

