-- ==== Sys2Proof/Syntax.lean ====
section
/-! DEFINITION. The instruction set: the eight commands of spec/30_encoding.md R93, one constructor per row of
spec/opcode_table.json. -/

namespace Sys2Proof

/-- A command of the block (R93). Commands have no register-number fields: every command works on fixed registers (R91). -/
inductive Instr where
  /-- `INIT`: start a message (R138). -/
  | init
  /-- `ABSB imm8`: absorb one immediate byte, any value (R139). -/
  | absb (imm8 : Byte)
  /-- `ABSW n`: absorb the `n` low-order bytes of `MDATA`, `n` in 1..8 (R140). -/
  | absw (n : Nat)
  /-- `FINAL`: pad, finalize, produce the digest (R141). -/
  | final
  /-- `ENCODE`: make the version-4 facade of `ID_IN` (R175). -/
  | encode
  /-- `DECODE`: recover the version-7 identifier from the facade in `ID_IN` (R176). -/
  | decode
  /-- `GEN7`: stamp a version-7 identifier from `TIME` and supplied bytes (R184). -/
  | gen7
  /-- `RST`: soft reset (R200). -/
  | rst
deriving DecidableEq, Repr

/-- The command's mnemonic, as R93's table spells it. -/
def Instr.mnemonic (i : Instr) : String :=
  match i with
  | .init => "INIT"
  | .absb _ => "ABSB"
  | .absw _ => "ABSW"
  | .final => "FINAL"
  | .encode => "ENCODE"
  | .decode => "DECODE"
  | .gen7 => "GEN7"
  | .rst => "RST"

end Sys2Proof
end

