-- ==== Sys2Proof/WellFormed.lean ====
section
/-! DEFINITION. Which terms of `Instr` an encoding exists for (spec/30_encoding.md R92). -/

namespace Sys2Proof

/-- A command is well formed when its operand has an encoding: the count of `ABSW` is 1 to 8, "a count of 0 cannot be
expressed" (R92); every byte is a legal `IMM8` (R91). -/
abbrev Instr.WellFormed (i : Instr) : Prop :=
  match i with
  | .absw n => 1 ≤ n ∧ n ≤ 8
  | .init => True
  | .absb _ => True
  | .final => True
  | .encode => True
  | .decode => True
  | .gen7 => True
  | .rst => True

end Sys2Proof
end

