-- ==== Sys2Proof/Decode.lean ====
section
/-! DEFINITION. The command word: its fields, the decoder and the encoder (spec/30_encoding.md R90 to R97). A command is one
64-bit word, the data of a write to `CMD`; decoding is total on words and rejects by name. -/

namespace Sys2Proof

/-- `OP`, bits 7:0 of a command word (R91). -/
def opField (w : Word) : BitVec 8 := w.extractLsb' 0 8

/-- `ARG`, bits 15:8 of a command word (R34, R97): `IMM8` in format I. -/
def argField (w : Word) : BitVec 8 := w.extractLsb' 8 8

/-- `NM1`, bits 10:8 of a command word: a byte count minus one (R91). -/
def nm1Field (w : Word) : BitVec 3 := w.extractLsb' 8 3

/-- Bits 15:11 of a command word, reserved in format N (R90). -/
def reservedN (w : Word) : BitVec 5 := w.extractLsb' 11 5

/-- Bits 63:16 of a command word, reserved in every format (R90). -/
def reservedHigh (w : Word) : BitVec 48 := w.extractLsb' 16 48

/-- Bits 15:0 of a command word: what a command fault records in `ERRINFO` (R211). -/
def lowField (w : Word) : BitVec 16 := w.extractLsb' 0 16

/-- Why a word is no command (R94): the steps of R97 that answer `ILLCMD`. -/
inductive IllegalWord where
  /-- Bits 63:16 are not zero (R97 step 1). -/
  | reservedHigh
  /-- A format-Z command with `ARG` not zero (R97 step 3). -/
  | reservedArg
  /-- `ABSW` with bits 15:11 not zero (R97 step 3). -/
  | reservedCount
  /-- `OP` is none of the eight opcodes (R97 step 3). -/
  | opcode
deriving DecidableEq, Repr

/-- What decoding a word answers: a command, or a rejection by name. -/
inductive Decoded where
  | instr (i : Instr)
  | illegal (why : IllegalWord)
deriving DecidableEq, Repr

/-- A format-Z command: bits 15:8 are reserved, must be 0 (R90, R97 step 3). -/
def decodeZ (w : Word) (i : Instr) : Decoded :=
  if argField w ≠ 0 then .illegal .reservedArg else .instr i

/-- Format I: `IMM8` is used as is, an unsigned byte, any value (R92, R97 step 3). -/
def decodeI (w : Word) : Decoded := .instr (.absb (argField w))

/-- Format N: bits 15:11 must be 0, and the count is `zext(w[10:8]) + 1` (R92, R97 step 3). -/
def decodeN (w : Word) : Decoded :=
  if reservedN w ≠ 0 then .illegal .reservedCount else .instr (.absw ((nm1Field w).toNat + 1))

/-- Decode of a command word: R97 steps 1 to 3, in their order. -/
def decode (w : Word) : Decoded :=
  if reservedHigh w ≠ 0 then .illegal .reservedHigh
  else if opField w = 0x01 then decodeZ w .init
  else if opField w = 0x02 then decodeI w
  else if opField w = 0x03 then decodeN w
  else if opField w = 0x04 then decodeZ w .final
  else if opField w = 0x10 then decodeZ w .encode
  else if opField w = 0x11 then decodeZ w .decode
  else if opField w = 0x12 then decodeZ w .gen7
  else if opField w = 0x7F then decodeZ w .rst
  else .illegal .opcode

/-- The command word of a command (R93, R100): `ABSB imm8` is `(imm8 << 8) | 0x02`, `ABSW n` is `((n − 1) << 8) | 0x03`, and
each format-Z command is its opcode alone. Meant for well-formed commands. -/
def encode (i : Instr) : Word :=
  match i with
  | .init => 0x01
  | .absb imm8 => (imm8.setWidth 64 <<< 8) ||| 0x02
  | .absw n => (BitVec.ofNat 64 (n - 1) <<< 8) ||| 0x03
  | .final => 0x04
  | .encode => 0x10
  | .decode => 0x11
  | .gen7 => 0x12
  | .rst => 0x7F

/-- A row of the opcode map: a word `w` is the command when `w & mask = match` (R93). -/
structure OpRow where
  mnemonic : String
  matchBits : Word
  mask : Word
deriving DecidableEq, Repr

/-- A word selects the row: `w & mask = match` (R93). -/
abbrev OpRow.Selects (r : OpRow) (w : Word) : Prop := w &&& r.mask = r.matchBits

/-- The opcode map of R93, copied from its `match` and `mask` columns. The decoder does not read it: `decode` follows R97, and
that the two agree is a statement about the model. -/
def opTable : List OpRow :=
  [ ⟨"INIT", 0x0000000000000001, 0xFFFFFFFFFFFFFFFF⟩,
    ⟨"ABSB", 0x0000000000000002, 0xFFFFFFFFFFFF00FF⟩,
    ⟨"ABSW", 0x0000000000000003, 0xFFFFFFFFFFFFF8FF⟩,
    ⟨"FINAL", 0x0000000000000004, 0xFFFFFFFFFFFFFFFF⟩,
    ⟨"ENCODE", 0x0000000000000010, 0xFFFFFFFFFFFFFFFF⟩,
    ⟨"DECODE", 0x0000000000000011, 0xFFFFFFFFFFFFFFFF⟩,
    ⟨"GEN7", 0x0000000000000012, 0xFFFFFFFFFFFFFFFF⟩,
    ⟨"RST", 0x000000000000007F, 0xFFFFFFFFFFFFFFFF⟩ ]

/-- The command word of which the low `nbits` bits are those of `w` and every bit above is 0 (log 13). -/
def tableWord (nbits w : Nat) : Word := BitVec.ofNat 64 (w % 2 ^ nbits)

/-- The command the decoder reads from a table row's word; none where it rejects the word. -/
def decodeTableWord (nbits w : Nat) : Option Instr :=
  match decode (tableWord nbits w) with
  | .instr i => some i
  | .illegal _ => none

end Sys2Proof
end

