-- ==== Sys2Proof/Machine/State.lean ====
section
/-! DEFINITION. The state of the block as plain data: every element of spec/10_state.md R20 under the spec's name, the
events the environment delivers to the port, and the reasons a step could stop. -/

namespace Sys2Proof.Machine

/-- The four SipHash words `V0`, `V1`, `V2`, `V3` (R21), or the four local variables of a pure function over them. -/
structure SipWords where
  v0 : Word
  v1 : Word
  v2 : Word
  v3 : Word
deriving DecidableEq, Repr

/-- What the environment may do to the block: a host transaction on one whole register (R61), or the hardware reset, "an
event `Reset`" that "is not a transaction" (R240). -/
inductive PortEvent where
  /-- `MemRead(off, 8)` (R66). -/
  | read (off : Offset)
  /-- `MemWrite(off, 8, data)` (R67). -/
  | write (off : Offset) (data : Word)
  /-- The hardware reset (R240). -/
  | reset
deriving DecidableEq, Repr

/-- The state: the elements of R20, and two fields of the model's own. -/
structure State where
  /-- `K0`, key word k0 (R21, R32). -/
  k0 : Word
  /-- `K1`, key word k1 (R21, R32). -/
  k1 : Word
  /-- `V0`..`V3`, the SipHash words (R21). -/
  v : SipWords
  /-- `TAIL`, the pending message bytes packed little-endian (R23). -/
  tail : Word
  /-- `NB`, the number of pending bytes (R23). -/
  nb : BitVec 3
  /-- `LEN`, the message length so far modulo 256 (R23). -/
  len : BitVec 8
  /-- `ACT`, a message is in progress (R24). -/
  act : Bool
  /-- `DIGEST`, the last digest (R25). -/
  digest : Word
  /-- `DV`, `DIGEST` is that of a completed message (R25). -/
  dv : Bool
  /-- `MDATA`, the message data word of `ABSW` (R26). -/
  mdata : Word
  /-- `ID_IN[0..15]`, the input identifier (R27). -/
  idIn : Ident
  /-- `ID_OUT[0..15]`, the output identifier (R28). -/
  idOut : Ident
  /-- `OV`, `ID_OUT` holds a result (R28). -/
  ov : Bool
  /-- `TIME`, the millisecond value for `GEN7` (R29). -/
  time : Word
  /-- `ERR`, the faulted state (R30). -/
  err : Bool
  /-- `ERRCODE`, code of the first fault since reset (R30, R211). -/
  errCode : BitVec 4
  /-- `ERRINFO`, information word of the first fault (R30, R211). -/
  errInfo : BitVec 16
  /-- MODEL'S OWN (log 1): what the environment has still to deliver to the port, oldest first, in the order in which the port
  accepts it (R72). -/
  port : List PortEvent
  /-- MODEL'S OWN (log 3): the data of the last read transaction, as the host holds it; none before the first read. -/
  lastRead : Option Word
deriving DecidableEq, Repr

/-- The state right after a hardware reset: every element 0 (R43, R241), no transaction pending, nothing read yet (log 2, log 3). -/
def State.reset : State where
  k0 := 0
  k1 := 0
  v := ⟨0, 0, 0, 0⟩
  tail := 0
  nb := 0
  len := 0
  act := false
  digest := 0
  dv := false
  mdata := 0
  idIn := #v[0, 0, 0, 0, 0, 0, 0, 0, 0, 0, 0, 0, 0, 0, 0, 0]
  idOut := #v[0, 0, 0, 0, 0, 0, 0, 0, 0, 0, 0, 0, 0, 0, 0, 0]
  ov := false
  time := 0
  err := false
  errCode := 0
  errInfo := 0
  port := []
  lastRead := none

/-- Why a step stops with a fault: no reason exists. The block's own faults (`ILLCMD`, `SEQ`, `BADACC`) are next states with
`ERR = 1` (R214), and "every (state, transaction) pair has exactly one successor state" (93, Part 2), so nothing raises a
fault that stops the machine and this type has no constructor (log 5; safe). -/
inductive Fault where
deriving DecidableEq, Repr

/-- Why a step is refused. -/
inductive Refusal where
  /-- Raised by an arm of `exec` whose instruction has no meaning yet; no arm does (safe). -/
  | notModelled (mnemonic : String)
deriving DecidableEq, Repr

end Sys2Proof.Machine
end

