-- ==== Sys2Proof/Machine/Ops.lean ====
section
/-! DEFINITION. The shared operations: byte order (spec/00_scope.md R13), the register map (spec/10_state.md R31), fault entry
(spec/60_exceptions.md R214) and the way back from a fault (R218), the streamed message's absorbing (spec/40_siphash.md R136).
The block has no memory (log 4): these are the operations over its registers. -/

namespace Sys2Proof.Machine

/-! ### Byte order -/

/-- `LE64(B)`: byte 0 least significant, 0 for no bytes (R13). -/
def le64 (bytes : List Byte) : Word :=
  match bytes with
  | [] => 0
  | b :: rest => b.setWidth 64 ||| (le64 rest <<< 8)

/-- `BE64(B)`: `sum over i of zext_64(B[i]) << (56 − 8i)` (R13); the summands have no bit in common. -/
def be64 (b0 b1 b2 b3 b4 b5 b6 b7 : Byte) : Word :=
  (b0.setWidth 64 <<< 56) ||| (b1.setWidth 64 <<< 48) ||| (b2.setWidth 64 <<< 40) ||| (b3.setWidth 64 <<< 32)
    ||| (b4.setWidth 64 <<< 24) ||| (b5.setWidth 64 <<< 16) ||| (b6.setWidth 64 <<< 8) ||| b7.setWidth 64

/-- Byte `i` of `BE64bytes(w)`: `w[63−8i : 56−8i]` (R13). -/
def be64Byte (w : Word) (i : Nat) : Byte := w.extractLsb' (56 - 8 * i) 8

/-- `BE48(B)`: byte 0 most significant (R13). -/
def be48 (b0 b1 b2 b3 b4 b5 : Byte) : BitVec 48 :=
  (b0.setWidth 48 <<< 40) ||| (b1.setWidth 48 <<< 32) ||| (b2.setWidth 48 <<< 24) ||| (b3.setWidth 48 <<< 16)
    ||| (b4.setWidth 48 <<< 8) ||| b5.setWidth 48

/-- Byte `i` of `BE48bytes(t)`: `t[47−8i : 40−8i]` (R13). -/
def be48Byte (t : BitVec 48) (i : Nat) : Byte := t.extractLsb' (40 - 8 * i) 8

/-- `BE64(ID[0..7])`: what the `HI` register of an identifier reads as (R63). -/
def idHi (id : Ident) : Word := be64 id[0] id[1] id[2] id[3] id[4] id[5] id[6] id[7]

/-- `BE64(ID[8..15])`: what the `LO` register of an identifier reads as (R63). -/
def idLo (id : Ident) : Word := be64 id[8] id[9] id[10] id[11] id[12] id[13] id[14] id[15]

/-- `ID[0..7] <- BE64bytes(data)`, the other eight bytes kept (R31, R67). -/
def setIdHi (id : Ident) (data : Word) : Ident :=
  #v[be64Byte data 0, be64Byte data 1, be64Byte data 2, be64Byte data 3, be64Byte data 4, be64Byte data 5, be64Byte data 6,
    be64Byte data 7, id[8], id[9], id[10], id[11], id[12], id[13], id[14], id[15]]

/-- `ID[8..15] <- BE64bytes(data)`, the other eight bytes kept (R31, R67). -/
def setIdLo (id : Ident) (data : Word) : Ident :=
  #v[id[0], id[1], id[2], id[3], id[4], id[5], id[6], id[7], be64Byte data 0, be64Byte data 1, be64Byte data 2,
    be64Byte data 3, be64Byte data 4, be64Byte data 5, be64Byte data 6, be64Byte data 7]

/-! ### The register map -/

/-- The eleven registers of the map (R31). -/
inductive Reg where
  | k0 | k1 | mdata | cmd | status | digest | idInHi | idInLo | idOutHi | idOutLo | time
deriving DecidableEq, Repr

/-- The byte offset of a register (R31). -/
def Reg.offset (r : Reg) : Offset :=
  match r with
  | .k0 => 0x00
  | .k1 => 0x08
  | .mdata => 0x10
  | .cmd => 0x18
  | .status => 0x20
  | .digest => 0x28
  | .idInHi => 0x30
  | .idInLo => 0x38
  | .idOutHi => 0x40
  | .idOutLo => 0x48
  | .time => 0x50

/-- An offset that holds no register: not a multiple of 8, or above 0x50 (R40, R66, R67). -/
def badOffset (off : Offset) : Bool := off.extractLsb' 0 3 ≠ 0 || off > 0x50

/-- The register at an offset; none where there is none (R31, R40). -/
def regAt (off : Offset) : Option Reg :=
  if badOffset off then none
  else if off = 0x00 then some .k0
  else if off = 0x08 then some .k1
  else if off = 0x10 then some .mdata
  else if off = 0x18 then some .cmd
  else if off = 0x20 then some .status
  else if off = 0x28 then some .digest
  else if off = 0x30 then some .idInHi
  else if off = 0x38 then some .idInLo
  else if off = 0x40 then some .idOutHi
  else if off = 0x48 then some .idOutLo
  else if off = 0x50 then some .time
  else none

/-! ### Faults and reset -/

/-- The causes of a fault (R211). -/
inductive FaultCause where
  /-- A word written to `CMD` that is no command (R212). -/
  | illcmd
  /-- `ABSB`, `ABSW` or `FINAL` with no message in progress (R213). -/
  | seq
  /-- An access to an offset that holds no register (R215). -/
  | badacc
deriving DecidableEq, Repr

/-- The `ERRCODE` of a cause (R211). -/
def FaultCause.code (c : FaultCause) : BitVec 4 :=
  match c with
  | .illcmd => 1
  | .seq => 2
  | .badacc => 3

/-- `raise Fault(code, info)` (R214): `ERR`, `ERRCODE`, `ERRINFO` are written together and nothing else changes. They are
written "only when `ERR = 0`" (R30); a cause that arises in the faulted state is not recorded (R219). -/
def raiseFault (c : FaultCause) (info : BitVec 16) (s : State) : State :=
  if s.err then s else { s with err := true, errCode := c.code, errInfo := info }

/-- `ERRINFO` of a bad access: bits 7:0 the offset, bit 8 set for a write, bits 15:9 zero (R211). -/
def accessInfo (isWrite : Bool) (off : Offset) : BitVec 16 :=
  (if isWrite then 0x0100 else 0x0000) ||| off.setWidth 16

/-- The reset of the block, the only way back from a fault (R218): every state element takes its reset value (R43, R200,
R240). The environment's two fields are no state of the block and stay (log 7). -/
def resetBlock (s : State) : State :=
  { State.reset with port := s.port, lastRead := s.lastRead }

/-- A command reaches the block's datapath only when `ERR = 0`; in the faulted state it is ignored with no state change
(R97, R217; log 10). -/
def acceptCommand (s : State) (go : Host.Outcome State Fault Refusal) : Host.Outcome State Fault Refusal :=
  if s.err then .next s else go

/-! ### SipHash on the state words -/

/-- `rotl(a, b)` is `(a << b) | (a >> (64 − b))` (R12). -/
def rotl (a : Word) (b : Nat) : Word := (a <<< b) ||| (a >>> (64 - b))

/-- `SipRound`: the fourteen assignments of R131, in their order. -/
def sipRound (v : SipWords) : SipWords :=
  let v0 := v.v0
  let v1 := v.v1
  let v2 := v.v2
  let v3 := v.v3
  let v0 := v0 + v1
  let v2 := v2 + v3
  let v1 := rotl v1 13
  let v3 := rotl v3 16
  let v1 := v1 ^^^ v0
  let v3 := v3 ^^^ v2
  let v0 := rotl v0 32
  let v2 := v2 + v1
  let v0 := v0 + v3
  let v1 := rotl v1 17
  let v3 := rotl v3 21
  let v1 := v1 ^^^ v2
  let v3 := v3 ^^^ v0
  let v2 := rotl v2 32
  ⟨v0, v1, v2, v3⟩

/-- `V3 <- V3 ^ m` (R132 step 1). -/
def xorV3 (m : Word) (v : SipWords) : SipWords := { v with v3 := v.v3 ^^^ m }

/-- `V0 <- V0 ^ m` (R132 step 4). -/
def xorV0 (m : Word) (v : SipWords) : SipWords := { v with v0 := v.v0 ^^^ m }

/-- `Compress(m)` (R132). -/
def compress (m : Word) (v : SipWords) : SipWords :=
  xorV0 m (sipRound (sipRound (xorV3 m v)))

/-- `V2 <- V2 ^ 0xff` and four `SipRound` (R133 step 4, R137 steps 3 and 4). -/
def finalRounds (v : SipWords) : SipWords :=
  sipRound (sipRound (sipRound (sipRound { v with v2 := v.v2 ^^^ 0x00000000000000FF })))

/-- `V0 ^ V1 ^ V2 ^ V3` (R133 step 5, R137 step 5). -/
def digestOf (v : SipWords) : Word := v.v0 ^^^ v.v1 ^^^ v.v2 ^^^ v.v3

/-- The SipHash words of a key before any block: the constants `C0`..`C3` of R130 xor the key words. -/
def initWords (k0 k1 : Word) : SipWords :=
  ⟨0x736f6d6570736575 ^^^ k0, 0x646f72616e646f6d ^^^ k1, 0x6c7967656e657261 ^^^ k0, 0x7465646279746573 ^^^ k1⟩

/-- The length byte in its place: `zext_64(len) << 56` (R106, R137 step 1). -/
def lengthByte (len : BitVec 8) : Word := len.setWidth 64 <<< 56

/-! ### Streaming procedures -/

/-- The writes of `INIT` (R138). -/
def startMessage (s : State) : State :=
  { s with v := initWords s.k0 s.k1, tail := 0, nb := 0, len := 0, act := true, dv := false, digest := 0 }

/-- `AbsorbByte(x)` (R136). -/
def absorbByte (s : State) (x : Byte) : State :=
  let tail := s.tail ||| (x.setWidth 64 <<< (8 * s.nb.toNat))
  if s.nb = 7 then { s with v := compress tail s.v, tail := 0, nb := 0, len := s.len + 1 }
  else { s with tail := tail, nb := s.nb + 1, len := s.len + 1 }

/-- `AbsorbByte` on each byte in increasing order (R140, R175 step 3). -/
def absorbBytes (s : State) (bytes : List Byte) : State := bytes.foldl absorbByte s

/-- `Finalize()` (R137). -/
def finalize (s : State) : State :=
  let v := finalRounds (compress (s.tail ||| lengthByte s.len) s.v)
  { s with v := v, digest := digestOf v, dv := true, act := false, tail := 0, nb := 0 }

end Sys2Proof.Machine
end

