-- ==== Sys2Proof/Machine/Operands.lean ====
section
/-! DEFINITION. The operands a command reads beside its word: the bytes of `MDATA` (spec/10_state.md R26), the time value and the
random bytes of `GEN7` are registers, read where they are used; and the part of the command word a command fault records. The
operand fields of the word itself are taken out by the decoder (Sys2Proof/Decode.lean). -/

namespace Sys2Proof.Machine

/-- Message byte `i` of `MDATA`: `MDATA[8i+7 : 8i]` (R26, R64). -/
def mdataByte (mdata : Word) (i : Nat) : Byte := mdata.extractLsb' (8 * i) 8

/-- The `n` low-order bytes of `MDATA`, in message order (R140). -/
def mdataBytes (mdata : Word) (n : Nat) : List Byte := (List.range n).map (mdataByte mdata)

/-- `w[15:0]` of the command's word: the information word of its command faults (R211). -/
def commandInfo (i : Instr) : BitVec 16 := lowField (encode i)

/-- A command that needs a message in progress: `SEQ` with `w[15:0]` when `ACT = 0` (R97 step 4, R213). -/
def inMessage (i : Instr) (s : State) (go : Host.Outcome State Fault Refusal) : Host.Outcome State Fault Refusal :=
  if s.act then go else .next (raiseFault .seq (commandInfo i) s)

end Sys2Proof.Machine
end

