-- ==== Sys2Proof/Machine/SipHash.lean ====
section
/-! DEFINITION. The PRF Engine (spec/40_siphash.md): the pure function `SipHash24` (R133) and the meanings of its four commands
`INIT`, `ABSB`, `ABSW`, `FINAL` (R138 to R141). -/

namespace Sys2Proof.Machine

/-- Full block number `j` of a message: `m_j = LE64(msg[8j .. 8j+7])` (R106). -/
def fullBlock (msg : List Byte) (j : Nat) : Word := le64 ((msg.drop (8 * j)).take 8)

/-- The full blocks of a message, in increasing order of `j`, `0 ≤ j < floor(L/8)` (R106, R133 step 2). -/
def fullBlocks (msg : List Byte) : List Word := (List.range (msg.length / 8)).map (fullBlock msg)

/-- The final block: `LE64(msg[8*floor(L/8) .. L−1]) | (zext_64(L mod 256) << 56)` (R106, R133 step 3). -/
def finalBlock (msg : List Byte) : Word :=
  le64 (msg.drop (8 * (msg.length / 8))) ||| lengthByte (BitVec.ofNat 8 (msg.length % 256))

/-- `SipHash24(msg, k0, k1)`, the pure function (R133). -/
def sipHash24 (msg : List Byte) (k0 k1 : Word) : Word :=
  let v := initWords k0 k1
  let v := (fullBlocks msg).foldl (fun v m => compress m v) v
  let v := compress (finalBlock msg) v
  digestOf (finalRounds v)

/-- `INIT` (R138). -/
def execInit (s : State) : Host.Outcome State Fault Refusal :=
  acceptCommand s (.next (startMessage s))

/-- `ABSB imm8`: `AbsorbByte(imm8)` (R139). -/
def execAbsb (imm8 : Byte) (s : State) : Host.Outcome State Fault Refusal :=
  acceptCommand s (inMessage (.absb imm8) s (.next (absorbByte s imm8)))

/-- `ABSW n`: `AbsorbByte` of the `n` low-order bytes of `MDATA`, in increasing order (R140). -/
def execAbsw (n : Nat) (s : State) : Host.Outcome State Fault Refusal :=
  acceptCommand s (inMessage (.absw n) s (.next (absorbBytes s (mdataBytes s.mdata n))))

/-- `FINAL`: `Finalize()` (R141). -/
def execFinal (s : State) : Host.Outcome State Fault Refusal :=
  acceptCommand s (inMessage .final s (.next (finalize s)))

end Sys2Proof.Machine
end

