-- ==== Sys2Proof/Machine/Facade.lean ====
section
/-! DEFINITION. The Facade Transform (spec/41_facade.md): the facade message, the mask and the transform as pure functions
(R171 to R174), and the meanings of `ENCODE`, `DECODE`, `GEN7` (R175, R176, R184). -/

namespace Sys2Proof.Machine

/-- `FacadeMsg(id)`: the 9-byte facade message (R171; the formula of its byte 0 wins over the prose, 90 C3; log 9). -/
def facadeMsg (id : Ident) : List Byte :=
  [id[6] &&& 0x0F, id[7], id[8] &&& 0x3F, id[9], id[10], id[11], id[12], id[13], id[14]]

/-- `Mask48(id, k0, k1)`: the low 48 bits of the digest (R172). -/
def mask48 (id : Ident) (k0 k1 : Word) : BitVec 48 := (sipHash24 (facadeMsg id) k0 k1).extractLsb' 0 48

/-- The 48-bit timestamp of an identifier, `BE48(id[0..5])` (R174 step 3). -/
def timestamp (id : Ident) : BitVec 48 := be48 id[0] id[1] id[2] id[3] id[4] id[5]

/-- An identifier with timestamp `ts`, version `ver`, variant `10`, and the payload of `id`: what R174 steps 3 and 4 and R184
write. Byte 6 is `(id[6] & 0x0F) | (ver << 4)`, byte 8 is `(id[8] & 0x3F) | 0x80`, bytes 7 and 9 to 15 are those of `id`. -/
def stamp (id : Ident) (ts : BitVec 48) (ver : BitVec 4) : Ident :=
  #v[be48Byte ts 0, be48Byte ts 1, be48Byte ts 2, be48Byte ts 3, be48Byte ts 4, be48Byte ts 5,
    (id[6] &&& 0x0F) ||| (ver.setWidth 8 <<< 4), id[7], (id[8] &&& 0x3F) ||| 0x80,
    id[9], id[10], id[11], id[12], id[13], id[14], id[15]]

/-- `Transform(id, k0, k1, ver)` (R174). -/
def transform (id : Ident) (k0 k1 : Word) (ver : BitVec 4) : Ident :=
  stamp id (timestamp id ^^^ mask48 id k0 k1) ver

/-- The digest of the facade message on the shared datapath: the writes of `INIT`, nine `AbsorbByte`, `Finalize()`
(R175 steps 1 to 4, R182). -/
def hashFacade (s : State) : State := finalize (absorbBytes (startMessage s) (facadeMsg s.idIn))

/-- `ID_OUT <- out`, `OV <- 1` (R28). -/
def deliver (s : State) (out : Ident) : State := { s with idOut := out, ov := true }

/-- `ENCODE` (R175): version 4. -/
def execEncode (s : State) : Host.Outcome State Fault Refusal :=
  acceptCommand s (.next (deliver (hashFacade s) (transform s.idIn s.k0 s.k1 4)))

/-- `DECODE` (R176): version 7. -/
def execDecode (s : State) : Host.Outcome State Fault Refusal :=
  acceptCommand s (.next (deliver (hashFacade s) (transform s.idIn s.k0 s.k1 7)))

/-- `GEN7` (R184): the timestamp is `TIME[47:0]`, `TIME` modulo 2^48 (R185); `ID_IN[0..5]` is ignored. -/
def execGen7 (s : State) : Host.Outcome State Fault Refusal :=
  acceptCommand s (.next (deliver s (stamp s.idIn (s.time.extractLsb' 0 48) 7)))

end Sys2Proof.Machine
end

