-- ==== Sys2Proof/Machine/System.lean ====
section
/-! DEFINITION. The system command `RST` (spec/42_system.md R200). -/

namespace Sys2Proof.Machine

/-- `RST` (R200): every state element takes its reset value, in the faulted state too: "the only command accepted in the
faulted state". -/
def execRst (s : State) : Host.Outcome State Fault Refusal := .next (resetBlock s)

end Sys2Proof.Machine
end

