-- ==== Sys2Proof/Machine/Dispatch.lean ====
section
/-! DEFINITION. Which meaning each command of spec/30_encoding.md R93 has (R97 step 5). -/

namespace Sys2Proof.Machine

def exec (i : Instr) (s : State) : Host.Outcome State Fault Refusal :=
  match i with
  -- PRF Engine, spec/40_siphash.md R138 to R141
  | .init => Sys2Proof.Machine.execInit s
  | .absb imm8 => Sys2Proof.Machine.execAbsb imm8 s
  | .absw n => Sys2Proof.Machine.execAbsw n s
  | .final => Sys2Proof.Machine.execFinal s
  -- Facade Transform, spec/41_facade.md R175, R176, R184
  | .encode => Sys2Proof.Machine.execEncode s
  | .decode => Sys2Proof.Machine.execDecode s
  | .gen7 => Sys2Proof.Machine.execGen7 s
  -- system, spec/42_system.md R200
  | .rst => Sys2Proof.Machine.execRst s

end Sys2Proof.Machine
end

