-- ==== Sys2Proof/Machine/Flags.lean ====
section
/-! DEFINITION. The status flags as the host sees them: the `STATUS` word (spec/10_state.md R35). The block has no arithmetic
flags: additions wrap with no carry or overflow flag (spec/40_siphash.md R134 (a)). Each command's own flag writes stand in the
operations it performs. -/

namespace Sys2Proof.Machine

/-- A one-bit field of `STATUS` in bit 0. -/
def flagBit (b : Bool) : Word := if b then 1 else 0

/-- `STATUS = zext_64(ERR) | ACT << 1 | DV << 2 | OV << 3 | NB << 8 | LEN << 16 | ERRCODE << 24 | ERRINFO << 32` (R35). -/
def statusWord (s : State) : Word :=
  flagBit s.err ||| (flagBit s.act <<< 1) ||| (flagBit s.dv <<< 2) ||| (flagBit s.ov <<< 3)
    ||| (s.nb.setWidth 64 <<< 8) ||| (s.len.setWidth 64 <<< 16) ||| (s.errCode.setWidth 64 <<< 24)
    ||| (s.errInfo.setWidth 64 <<< 32)

end Sys2Proof.Machine
end

