-- ==== Sys2Proof/Machine/Port.lean ====
section
/-! DEFINITION. The host port: what one transaction or reset event does (spec/20_memory.md R66, R67; spec/70_reset_and_hazards.md
R240), and the delivery of events one at a time in their order (R72). -/

namespace Sys2Proof.Machine

/-- What a read of a register returns (R31, R66): `K0`, `K1` and `CMD` are write-only and read as 0. -/
def readReg (r : Reg) (s : State) : Word :=
  match r with
  | .k0 => 0
  | .k1 => 0
  | .mdata => s.mdata
  | .cmd => 0
  | .status => statusWord s
  | .digest => s.digest
  | .idInHi => idHi s.idIn
  | .idInLo => idLo s.idIn
  | .idOutHi => idHi s.idOut
  | .idOutLo => idLo s.idOut
  | .time => s.time

/-- `MemRead(off, 8)` (R66): the state it leaves and the value it returns. A read of an offset with no register returns 0 and, if
`ERR = 0`, faults; any other read changes no state. -/
def readPort (off : Offset) (s : State) : State × Word :=
  match regAt off with
  | none => (raiseFault .badacc (accessInfo false off) s, 0)
  | some r => (s, readReg r s)

/-- The value a read returned goes to the host, who holds it (log 3). -/
def answerRead (answer : State × Word) : State := { answer.1 with lastRead := some answer.2 }

/-- Execute a command word (R97): an illegal word raises `ILLCMD` with `w[15:0]` and has no other effect (R94). -/
def runCommand (w : Word) (s : State) : Host.Outcome State Fault Refusal :=
  match decode w with
  | .instr i => exec i s
  | .illegal _ => .next (raiseFault .illcmd (lowField w) s)

/-- A write of `data` to a register (R31, R67): writes to read-only registers have no effect, a write to `CMD` executes a
command. -/
def writeReg (r : Reg) (data : Word) (s : State) : Host.Outcome State Fault Refusal :=
  match r with
  | .k0 => .next { s with k0 := data }
  | .k1 => .next { s with k1 := data }
  | .mdata => .next { s with mdata := data }
  | .cmd => runCommand data s
  | .status => .next s
  | .digest => .next s
  | .idInHi => .next { s with idIn := setIdHi s.idIn data }
  | .idInLo => .next { s with idIn := setIdLo s.idIn data }
  | .idOutHi => .next s
  | .idOutLo => .next s
  | .time => .next { s with time := data }

/-- `MemWrite(off, 8, data)` (R67): in the faulted state only a write of exactly `RST`'s word to `CMD` has an effect (R217). -/
def writePort (off : Offset) (data : Word) (s : State) : Host.Outcome State Fault Refusal :=
  if s.err then
    if off = 0x18 ∧ data = 0x000000000000007F then exec .rst s else .next s
  else
    match regAt off with
    | none => .next (raiseFault .badacc (accessInfo true off) s)
    | some r => writeReg r data s

/-- The transaction an event is, the one a parameter of the port speaks of (R8 `LATENCY(op)`, `PORT_PROTOCOL`); the hardware reset
"is not a transaction" (R240). -/
def PortEvent.transaction (e : PortEvent) : Option Transaction :=
  match e with
  | .read off => some (.read off)
  | .write off data => some (.write off data)
  | .reset => none

/-- What one event does to the block (R61, R240). -/
def serve (e : PortEvent) (s : State) : Host.Outcome State Fault Refusal :=
  match e with
  | .read off => .next (answerRead (readPort off s))
  | .write off data => writePort off data s
  | .reset => .next (resetBlock s)

/-- The port accepts the oldest event, which is complete before the next is accepted (R9, R72). "With no transaction and no
reset, the state does not change" (R10). -/
def stepPort (s : State) : Host.Outcome State Fault Refusal :=
  match s.port with
  | [] => .next s
  | e :: rest => serve e { s with port := rest }

/-- A command is delivered as the data of a write to `CMD` (R22, R90): the next transaction of the port is this one (log 2). -/
def pushCommand (w : Word) (s : State) : State := { s with port := .write 0x18 w :: s.port }

end Sys2Proof.Machine
end

