-- ==== Sys2Proof/Machine/Step.lean ====
section
/-! DEFINITION. One step of the machine: one event of the port (spec/00_scope.md R9), by `Sys2Proof.Machine.stepPort`. -/

namespace Sys2Proof.Machine

/-- One step: the port's oldest event, or nothing when there is none (R9, R10). -/
def step (s : State) : Host.Outcome State Fault Refusal := Sys2Proof.Machine.stepPort s

/-- `s` with a command word delivered as the next transaction: the block stores no program, and the next step runs exactly this
command (R22; log 2). -/
def State.withFetchWord (s : State) (nbits w : Nat) : State := Sys2Proof.Machine.pushCommand (Sys2Proof.tableWord nbits w) s

end Sys2Proof.Machine
end

