-- ==== Sys2Proof/Machine/Notation.lean ====
section
/-! DEFINITION. The transaction notation of spec/30_encoding.md R100 and the pseudo-operations of R101, as the port events they
stand for. -/

namespace Sys2Proof.Machine

/-- `WR <reg>, <value>` (R100). -/
def wr (r : Reg) (value : Word) : PortEvent := .write r.offset value

/-- `RD <reg>` (R100). -/
def rd (r : Reg) : PortEvent := .read r.offset

/-- A command's line: `WR CMD, <word>` (R100). -/
def command (i : Instr) : PortEvent := wr .cmd (encode i)

/-- `LDKEY k0, k1` (R101). -/
def ldkey (k0 k1 : Word) : List PortEvent := [wr .k0 k0, wr .k1 k1]

/-- `LDID hi, lo` (R101). -/
def ldid (hi lo : Word) : List PortEvent := [wr .idInHi hi, wr .idInLo lo]

/-- `ABSM word, n` (R101). -/
def absm (word : Word) (n : Nat) : List PortEvent := [wr .mdata word, command (.absw n)]

/-- The remainder's line of `HASH`: none when there is no remainder (R101). -/
def hashRemainder (rest : List Byte) : List PortEvent :=
  if rest = [] then [] else absm (le64 rest) rest.length

/-- `HASH b0 b1 ... b(L-1)` (R101). -/
def hashEvents (msg : List Byte) : List PortEvent :=
  [command .init] ++ (fullBlocks msg).flatMap (fun m => absm m 8)
    ++ hashRemainder (msg.drop (8 * (msg.length / 8))) ++ [command .final]

/-- `MOVOI`, for a host that was answered `t` and `u` by its two reads (R101). -/
def movoi (t u : Word) : List PortEvent := [rd .idOutHi, rd .idOutLo, wr .idInHi t, wr .idInLo u]

end Sys2Proof.Machine
end

