-- ==== Sys2Proof/Safety.lean ====
section
/-! DEFINITION. What counts as a safe run, in the terms the statements use: the invariants of spec/10_state.md R42, the faulted
state (spec/60_exceptions.md R217), what a host can see (R20, R41), and runs of several steps. -/

namespace Sys2Proof.Safety

open Sys2Proof.Machine

/-! ### Invariants -/

/-- The invariants of R42 (a) to (e). -/
structure Inv (s : State) : Prop where
  /-- R42 (a): `TAIL < 2^(8*NB)`. -/
  tail_bound : s.tail.toNat < 2 ^ (8 * s.nb.toNat)
  /-- R42 (b): `NB = LEN mod 8` whenever `ACT = 1`. -/
  nb_of_act : s.act = true → s.nb.toNat = s.len.toNat % 8
  /-- R42 (c): `ERR = 0` if and only if `ERRCODE = 0`. -/
  err_iff : s.err = false ↔ s.errCode = 0
  /-- R42 (c): `ERR = 0` implies `ERRINFO = 0`. -/
  info_of_ok : s.err = false → s.errInfo = 0
  /-- R42 (d): `ERRCODE` is in {0, 1, 2, 3}. -/
  code_bound : s.errCode.toNat ≤ 3
  /-- R42 (e): `DV = 0` implies `DIGEST = 0`. -/
  digest_of_dv : s.dv = false → s.digest = 0
  /-- R42 (e): `OV = 0` implies `ID_OUT` is all zero. -/
  idOut_of_ov : s.ov = false → s.idOut = Vector.replicate 16 0

/-- "`STATUS.NB` is 0 whenever `ACT = 0`" (90 C10), and a message in progress has no valid digest yet (R24, R25). -/
structure MessageInv (s : State) : Prop where
  nb_idle : s.act = false → s.nb = 0
  dv_of_act : s.act = true → s.dv = false

/-- The version nibble of an identifier: `id[6][7:4]` (R170). -/
def version (id : Ident) : BitVec 4 := id[6].extractLsb' 4 4

/-- The variant bits of an identifier: `id[8][7:6]` (R170). -/
def variant (id : Ident) : BitVec 2 := id[8].extractLsb' 6 2

/-- A result the block has delivered has variant `10` and version 4 or 7 (R178, R184). -/
def ResultInv (s : State) : Prop :=
  s.ov = true → variant s.idOut = 0b10 ∧ (version s.idOut = 4 ∨ version s.idOut = 7)

/-- A recorded fault has an information word its cause can produce (R211 to R213): a bad access keeps bits 15:9 zero and names
an offset that holds no register; a sequence fault names one of the three commands that need a message. -/
def FaultRecordInv (s : State) : Prop :=
  (s.errCode = FaultCause.badacc.code →
    s.errInfo.extractLsb' 9 7 = 0 ∧ regAt (s.errInfo.extractLsb' 0 8) = none) ∧
  (s.errCode = FaultCause.seq.code →
    ∃ i, decode (s.errInfo.setWidth 64) = .instr i ∧ ((∃ x, i = .absb x) ∨ (∃ n, i = .absw n) ∨ i = .final))

/-- The datapath untouched since reset (R42 (f)). -/
structure DatapathZero (s : State) : Prop where
  v_zero : s.v = ⟨0, 0, 0, 0⟩
  tail_zero : s.tail = 0
  nb_zero : s.nb = 0
  len_zero : s.len = 0
  act_clear : s.act = false

/-- Every element of R20 has its reset value of R43. -/
structure AllZero (s : State) : Prop where
  k0 : s.k0 = 0
  k1 : s.k1 = 0
  v : s.v = ⟨0, 0, 0, 0⟩
  tail : s.tail = 0
  nb : s.nb = 0
  len : s.len = 0
  act : s.act = false
  digest : s.digest = 0
  dv : s.dv = false
  mdata : s.mdata = 0
  idIn : s.idIn = Vector.replicate 16 0
  idOut : s.idOut = Vector.replicate 16 0
  ov : s.ov = false
  time : s.time = 0
  err : s.err = false
  errCode : s.errCode = 0
  errInfo : s.errInfo = 0

/-! ### The block beside the environment -/

/-- The two states hold the same block: every element of R20 is equal; the environment's pending events and the data the host
holds may differ. -/
def SameBlock (s t : State) : Prop := { t with port := s.port, lastRead := s.lastRead } = s

/-- Two states a host cannot tell apart by reading: every visible element of R20 is equal; `K0`, `K1`, `V0`..`V3`, `TAIL` may
differ (R41). -/
structure SameVisible (s t : State) : Prop where
  nb : s.nb = t.nb
  len : s.len = t.len
  act : s.act = t.act
  digest : s.digest = t.digest
  dv : s.dv = t.dv
  mdata : s.mdata = t.mdata
  idIn : s.idIn = t.idIn
  idOut : s.idOut = t.idOut
  ov : s.ov = t.ov
  time : s.time = t.time
  err : s.err = t.err
  errCode : s.errCode = t.errCode
  errInfo : s.errInfo = t.errInfo

/-- The events that can take the block out of the faulted state: the hardware reset and the write of exactly `RST`'s word to
`CMD` (R217, R218). -/
def Exits (e : PortEvent) : Prop := e = .reset ∨ e = .write 0x18 0x7F

/-! ### Runs -/

/-- `n` steps of the machine. -/
def runSteps (n : Nat) (s : State) : Host.Outcome State Fault Refusal :=
  match n with
  | 0 => .next s
  | k + 1 =>
    match step s with
    | .next t => runSteps k t
    | .fault r => .fault r
    | .refused r => .refused r

/-- A list of events, each served on the state the one before it left: "the left-to-right composition of their rules" (R9). -/
def serveAll (es : List PortEvent) (s : State) : Host.Outcome State Fault Refusal :=
  match es with
  | [] => .next s
  | e :: rest =>
    match serve e s with
    | .next t => serveAll rest t
    | .fault r => .fault r
    | .refused r => .refused r

/-- A list of commands, each executed on the state the one before it left. -/
def execAll (is : List Instr) (s : State) : Host.Outcome State Fault Refusal :=
  match is with
  | [] => .next s
  | i :: rest =>
    match exec i s with
    | .next t => execAll rest t
    | .fault r => .fault r
    | .refused r => .refused r

/-- A piece of a streamed message: one byte by `ABSB`, or the first `n` bytes of a word by `WR MDATA` and `ABSW n` (R142 "any
mix of `ABSB` and `ABSW`, any chunking"). -/
inductive Chunk where
  | byte (x : Byte)
  | word (data : Word) (n : Nat)
deriving DecidableEq, Repr

/-- A chunk whose count an `ABSW` can express (R92). -/
abbrev Chunk.WellFormed (c : Chunk) : Prop :=
  match c with
  | .byte _ => True
  | .word _ n => 1 ≤ n ∧ n ≤ 8

/-- The transactions that deliver a chunk. -/
def Chunk.events (c : Chunk) : List PortEvent :=
  match c with
  | .byte x => [command (.absb x)]
  | .word data n => absm data n

/-- The message bytes of a chunk. -/
def Chunk.bytes (c : Chunk) : List Byte :=
  match c with
  | .byte x => [x]
  | .word data n => mdataBytes data n

/-- The transactions of a whole message: `INIT`, the chunks, `FINAL` (R142). -/
def messageEvents (chunks : List Chunk) : List PortEvent :=
  [command .init] ++ chunks.flatMap Chunk.events ++ [command .final]

/-- The message the chunks deliver. -/
def messageBytes (chunks : List Chunk) : List Byte := chunks.flatMap Chunk.bytes

end Sys2Proof.Safety
end

