-- ==== Sys2Proof/Certificates/Slice0/Obligations.lean ====
section
/-! DEFINITION. The statements about the model. Each docstring names the rule of spec/ it formalises. -/

open Sys2Proof Sys2Proof.Machine Sys2Proof.Safety

/-! ### Encoding (spec/30_encoding.md) -/

/-- Words written out from R93's table decode to the commands they stand for, and neighbours of them are illegal (vectors
V50.1 to V50.28). -/
def Obligations.SampleWordsDecodeToTheirCommands : Prop :=
  decode 0x0000000000000001 = .instr .init ∧ decode 0x000000000000ab02 = .instr (.absb 0xab) ∧
  decode 0x0000000000000003 = .instr (.absw 1) ∧ decode 0x0000000000000703 = .instr (.absw 8) ∧
  decode 0x0000000000000004 = .instr .final ∧ decode 0x0000000000000010 = .instr .encode ∧
  decode 0x0000000000000011 = .instr .decode ∧ decode 0x0000000000000012 = .instr .gen7 ∧
  decode 0x000000000000007F = .instr .rst ∧
  decode 0x0000000000000000 = .illegal .opcode ∧ decode 0x0000000000000803 = .illegal .reservedCount ∧
  decode 0x000000000000017f = .illegal .reservedArg ∧ decode 0x8000000000000004 = .illegal .reservedHigh

/-- Every well-formed command, with every operand, is read back from its word (R92, R93, R97, R100). -/
def Obligations.DecodeOfEncodeIsTheCommand : Prop :=
  ∀ i : Instr, i.WellFormed → decode (encode i) = .instr i

/-- Every word has one meaning: a word that decodes is the word of the well-formed command it decodes to (R92, R93). -/
def Obligations.EncodeOfDecodeIsTheWord : Prop :=
  ∀ (w : Word) (i : Instr), decode w = .instr i → i.WellFormed ∧ encode i = w

/-- The decoder, written from the decode procedure R97, selects exactly the row of R93's match/mask table, and no word selects
two rows. -/
def Obligations.DecoderSelectsTheOpcodeMapRow : Prop :=
  (∀ (w : Word), ∀ r ∈ opTable, r.Selects w ↔ ∃ i, decode w = .instr i ∧ i.mnemonic = r.mnemonic) ∧
  (∀ (w : Word), ∀ r ∈ opTable, ∀ q ∈ opTable, r.Selects w → q.Selects w → r = q)

/-- There are exactly 270 legal words (R94, R95). -/
def Obligations.ExactlyTwoHundredSeventyWordsAreLegal : Prop :=
  ∃ l : List Word, l.Nodup ∧ l.length = 270 ∧ ∀ w, w ∈ l ↔ ∃ i, decode w = .instr i

/-! ### Steps and transactions (spec/20_memory.md) -/

/-- With no transaction and no reset the state does not change (R10). -/
def Obligations.IdlePortLeavesTheStateAlone : Prop :=
  ∀ s : State, s.port = [] → step s = .next s

/-- A step serves the oldest event of the port, on the state with that event taken off (R9, R72; that the host's transactions stand in
a list the step reads is the model's own choice, log 1). -/
def Obligations.StepServesTheOldestEvent : Prop :=
  ∀ (s : State) (e : PortEvent) (rest : List PortEvent), s.port = e :: rest → step s = serve e { s with port := rest }

/-- A step runs the decoded command: when the next transaction writes `CMD` with a word that decodes to `i`, the step is `exec i`
on the state with that transaction taken off the port (R67, R97, R217; the port is the model's own, log 1). -/
def Obligations.StepRunsTheDecodedCommand : Prop :=
  ∀ (s : State) (w : Word) (i : Instr) (rest : List PortEvent),
    s.port = .write 0x18 w :: rest → decode w = .instr i → step s = exec i { s with port := rest }

/-- A run of as many steps as there are events serves them from left to right, each on the state the one before it left (R9 "the
left-to-right composition of their rules", R72; the list is the model's own, log 1). -/
def Obligations.RunServesTheEventsInOrder : Prop :=
  ∀ (es rest : List PortEvent) (s : State), s.port = es ++ rest →
    runSteps es.length s = serveAll es { s with port := rest }

/-- Every step of every state answers a next state: "every (state, transaction) pair has exactly one successor state" (93). -/
def Obligations.EveryStepAnswersANextState : Prop :=
  ∀ s : State, ∃ t, step s = .next t

/-- The read transaction, all of R66: what each implemented offset returns, with no state change, in the faulted state too; any other
offset returns 0 and faults when `ERR = 0`, and changes nothing when `ERR = 1`. -/
def Obligations.ReadTransactionAnswersTheRegister : Prop :=
  ∀ (s : State) (off : Offset),
    (∀ d, (off, d) ∈ [((0x00 : Offset), (0 : Word)), (0x08, 0), (0x10, s.mdata), (0x18, 0), (0x20, statusWord s),
        (0x28, s.digest), (0x30, idHi s.idIn), (0x38, idLo s.idIn), (0x40, idHi s.idOut), (0x48, idLo s.idOut),
        (0x50, s.time)] →
      readPort off s = (s, d)) ∧
    ((off.extractLsb' 0 3 ≠ 0 ∨ 0x50 < off) → s.err = false →
      readPort off s = ({ s with err := true, errCode := 3, errInfo := off.setWidth 16 }, 0)) ∧
    ((off.extractLsb' 0 3 ≠ 0 ∨ 0x50 < off) → s.err = true → readPort off s = (s, 0))

/-- The write transaction, all of R67: the faulted state, bad offsets, the five data registers' seven offsets, `CMD`, and the
read-only registers. A write changes only the element named. -/
def Obligations.WriteTransactionChangesOnlyTheElementNamed : Prop :=
  ∀ (s : State) (off : Offset) (d : Word),
    (s.err = true → off = 0x18 → d = 0x7F → writePort off d s = exec .rst s) ∧
    (s.err = true → ¬(off = 0x18 ∧ d = 0x7F) → writePort off d s = .next s) ∧
    (s.err = false → (off.extractLsb' 0 3 ≠ 0 ∨ 0x50 < off) →
      writePort off d s = .next { s with err := true, errCode := 3, errInfo := 0x0100 ||| off.setWidth 16 }) ∧
    (s.err = false → off = 0x00 → writePort off d s = .next { s with k0 := d }) ∧
    (s.err = false → off = 0x08 → writePort off d s = .next { s with k1 := d }) ∧
    (s.err = false → off = 0x10 → writePort off d s = .next { s with mdata := d }) ∧
    (s.err = false → off = 0x18 → writePort off d s = runCommand d s) ∧
    (s.err = false → off = 0x30 → ∃ id, writePort off d s = .next { s with idIn := id } ∧
      (∀ k : Fin 8, id[k.val]'(by omega) = d.extractLsb' (56 - 8 * k) 8) ∧
      ∀ k : Fin 8, id[8 + k.val]'(by omega) = s.idIn[8 + k.val]'(by omega)) ∧
    (s.err = false → off = 0x38 → ∃ id, writePort off d s = .next { s with idIn := id } ∧
      (∀ k : Fin 8, id[8 + k.val]'(by omega) = d.extractLsb' (56 - 8 * k) 8) ∧
      ∀ k : Fin 8, id[k.val]'(by omega) = s.idIn[k.val]'(by omega)) ∧
    (s.err = false → off = 0x50 → writePort off d s = .next { s with time := d }) ∧
    (s.err = false → off ∈ [(0x20 : Offset), 0x28, 0x40, 0x48] → writePort off d s = .next s)

/-- The `STATUS` word bit by bit, reserved bits 0 (R35). -/
def Obligations.StatusWordHoldsEachFieldInItsPlace : Prop :=
  ∀ s : State,
    (statusWord s).extractLsb' 0 1 = BitVec.ofBool s.err ∧ (statusWord s).extractLsb' 1 1 = BitVec.ofBool s.act ∧
    (statusWord s).extractLsb' 2 1 = BitVec.ofBool s.dv ∧ (statusWord s).extractLsb' 3 1 = BitVec.ofBool s.ov ∧
    (statusWord s).extractLsb' 4 4 = 0 ∧ (statusWord s).extractLsb' 8 3 = s.nb ∧
    (statusWord s).extractLsb' 11 5 = 0 ∧ (statusWord s).extractLsb' 16 8 = s.len ∧
    (statusWord s).extractLsb' 24 4 = s.errCode ∧ (statusWord s).extractLsb' 28 4 = 0 ∧
    (statusWord s).extractLsb' 32 16 = s.errInfo ∧ (statusWord s).extractLsb' 48 16 = 0

/-- The identifier registers are big-endian and hold the fields of R104: `ts = HI[63:16]`, `ver = HI[15:12]`, `pa = HI[11:0]`,
`var = LO[63:62]`, `pb = LO[61:0]`, and byte k is `HI[63−8k : 56−8k]` or `LO[127−8k : 120−8k]`. -/
def Obligations.IdentifierRegistersAreBigEndian : Prop :=
  ∀ id : Ident,
    (idHi id).extractLsb' 16 48 = timestamp id ∧ (idHi id).extractLsb' 12 4 = version id ∧
    (idHi id).extractLsb' 8 4 = id[6].extractLsb' 0 4 ∧ (idHi id).extractLsb' 0 8 = id[7] ∧
    (idLo id).extractLsb' 62 2 = variant id ∧ (idLo id).extractLsb' 56 6 = id[8].extractLsb' 0 6 ∧
    (∀ k : Fin 8, (idHi id).extractLsb' (56 - 8 * k) 8 = id[k.val]'(by omega)) ∧
    (∀ k : Fin 8, (idLo id).extractLsb' (56 - 8 * k) 8 = id[8 + k.val]'(by omega))

/-! ### PRF Engine (spec/40_siphash.md) -/

/-- `SipRound` is the fourteen assignments of R131 in their order, a bijection on 2^256 states, with its corner case and its example. -/
def Obligations.SipRoundIsTheFourteenAssignmentsAndBijective : Prop :=
  (∀ v : SipWords,
    let a0 := v.v0 + v.v1
    let a2 := v.v2 + v.v3
    let a1 := v.v1.rotateLeft 13 ^^^ a0
    let a3 := v.v3.rotateLeft 16 ^^^ a2
    let b0 := a0.rotateLeft 32 + a3
    let b2 := a2 + a1
    sipRound v = ⟨b0, a1.rotateLeft 17 ^^^ b2, b2.rotateLeft 32, a3.rotateLeft 21 ^^^ b0⟩) ∧
  Function.Bijective sipRound ∧ sipRound ⟨0, 0, 0, 0⟩ = ⟨0, 0, 0, 0⟩ ∧
  sipRound ⟨1, 0, 0, 0⟩ = ⟨0x0000000100000000, 0x0000000000020001, 0x0000000100000000, 0x0000000100000000⟩

/-- The message blocks of R106: byte k of full block j is message byte 8j + k; the final block holds the remainder's bytes in
order in its low bytes, zeros above them, and the message length modulo 256 in bits 63:56. -/
def Obligations.MessageBlocksPackTheBytesLittleEndian : Prop :=
  ∀ msg : List Byte,
    (fullBlocks msg).length = msg.length / 8 ∧
    (∀ j k, j < msg.length / 8 → k < 8 →
      ((fullBlocks msg).getD j 0).extractLsb' (8 * k) 8 = msg.getD (8 * j + k) 0) ∧
    (∀ k, k < 7 → (finalBlock msg).extractLsb' (8 * k) 8 = msg.getD (8 * (msg.length / 8) + k) 0) ∧
    (finalBlock msg).extractLsb' 56 8 = BitVec.ofNat 8 (msg.length % 256)

/-- `INIT` (R138): when `ERR = 0` it completes in any state, restarting a message in progress, and any other word with its
opcode is illegal. -/
def Obligations.InitStartsAMessage : Prop :=
  (∀ s : State, s.err = false → exec .init s = .next { s with
    v := ⟨0x736f6d6570736575 ^^^ s.k0, 0x646f72616e646f6d ^^^ s.k1, 0x6c7967656e657261 ^^^ s.k0,
      0x7465646279746573 ^^^ s.k1⟩,
    tail := 0, nb := 0, len := 0, act := true, dv := false, digest := 0 }) ∧
  (∀ w : Word, w.extractLsb' 0 8 = 0x01 → (decode w = .instr .init ↔ w.extractLsb' 8 56 = 0) ∧
    (w.extractLsb' 8 56 ≠ 0 → ∃ why, decode w = .illegal why))

/-- `AbsorbByte` (R136) as `ABSB` performs it: the byte goes above the pending ones, `LEN` counts modulo 256, and the eighth byte
compresses the block. -/
def Obligations.AbsbAbsorbsItsByte : Prop :=
  ∀ (s : State) (x : Byte), s.err = false → s.act = true →
    (s.nb = 7 → exec (.absb x) s = .next { s with
      v := compress (s.tail ||| (x.setWidth 64 <<< (8 * s.nb.toNat))) s.v, tail := 0, nb := 0, len := s.len + 1 }) ∧
    (s.nb ≠ 7 → exec (.absb x) s = .next { s with
      tail := s.tail ||| (x.setWidth 64 <<< (8 * s.nb.toNat)), nb := s.nb + 1, len := s.len + 1 })

/-- `Compress(m)` is "`v3 ^= m`; apply the compression round twice; `v0 ^= m`" (R132). -/
def Obligations.CompressIsTwoRoundsBetweenTwoXors : Prop :=
  ∀ (m : Word) (v : SipWords),
    compress m v =
      let u := sipRound (sipRound ⟨v.v0, v.v1, v.v2, v.v3 ^^^ m⟩)
      ⟨u.v0 ^^^ m, u.v1, u.v2, u.v3⟩

/-- `ABSW n` absorbs the `n` low-order bytes of `MDATA` in increasing order: it does what `n` `ABSB` do with those bytes (R140). -/
def Obligations.AbswAbsorbsTheLowBytesOfMdataInOrder : Prop :=
  ∀ (s : State) (n : Nat), 1 ≤ n → n ≤ 8 → s.err = false → s.act = true →
    ∃ t, exec (.absw n) s = .next t ∧
      execAll ((List.range n).map (fun i => .absb (s.mdata.extractLsb' (8 * i) 8))) s = .next t

/-- `ABSW` at a block boundary (R140): with `NB + n < 8` nothing is compressed; otherwise exactly one block is, made of the
pending bytes and the first `8 − NB` bytes of `MDATA`, and the rest become the new `TAIL`. -/
def Obligations.AbswCompressesAtMostOneBlock : Prop :=
  ∀ (s : State) (n : Nat), 1 ≤ n → n ≤ 8 → s.err = false → s.act = true →
    (s.nb.toNat + n < 8 → exec (.absw n) s = .next { s with
      tail := s.tail ||| ((s.mdata.extractLsb' 0 (8 * n)).setWidth 64 <<< (8 * s.nb.toNat)),
      nb := BitVec.ofNat 3 (s.nb.toNat + n), len := s.len + BitVec.ofNat 8 n }) ∧
    (8 ≤ s.nb.toNat + n → exec (.absw n) s = .next { s with
      v := compress (s.tail ||| (s.mdata <<< (8 * s.nb.toNat))) s.v,
      tail := (s.mdata.extractLsb' 0 (8 * n)).setWidth 64 >>> (8 * (8 - s.nb.toNat)),
      nb := BitVec.ofNat 3 (s.nb.toNat + n - 8), len := s.len + BitVec.ofNat 8 n })

/-- `FINAL` (R141, `Finalize()` R137): the final block, `V2 ^= 0xff`, four rounds, the digest; `TAIL` and `NB` are cleared and
`LEN` is kept. -/
def Obligations.FinalProducesTheDigest : Prop :=
  ∀ s : State, s.err = false → s.act = true →
    let c := compress (s.tail ||| (s.len.setWidth 64 <<< 56)) s.v
    let f := sipRound (sipRound (sipRound (sipRound ⟨c.v0, c.v1, c.v2 ^^^ 0xff, c.v3⟩)))
    exec .final s = .next { s with
      v := f, digest := f.v0 ^^^ f.v1 ^^^ f.v2 ^^^ f.v3, dv := true, act := false, tail := 0, nb := 0 }

/-- Streaming equals the pure function (R142): from any state with `ERR = 0`, `INIT`, any chunking of the message by `ABSB` and by
`WR MDATA` with `ABSW`, and `FINAL` end with `SipHash24` of the message under the key the registers held; and before the `FINAL`
the invariant of R142 holds: the words are those of the full blocks, `NB`, `TAIL`, `LEN` those of the bytes so far. -/
def Obligations.StreamingEqualsSipHash24 : Prop :=
  ∀ (chunks : List Chunk) (s : State), (∀ c ∈ chunks, c.WellFormed) → s.err = false →
    let msg := messageBytes chunks
    (∃ u, serveAll (command .init :: chunks.flatMap Chunk.events) s = .next u ∧
      u.v = (fullBlocks msg).foldl (fun v m => compress m v) (initWords s.k0 s.k1) ∧ u.nb.toNat = msg.length % 8 ∧
      u.tail = le64 (msg.drop (8 * (msg.length / 8))) ∧ u.len = BitVec.ofNat 8 (msg.length % 256) ∧ u.act = true) ∧
    ∃ t, serveAll (messageEvents chunks) s = .next t ∧
      t.digest = sipHash24 msg s.k0 s.k1 ∧ t.dv = true ∧ t.act = false ∧ t.nb = 0 ∧ t.tail = 0 ∧
      t.len = BitVec.ofNat 8 (msg.length % 256) ∧ t.err = false

/-- The pseudo-operation `HASH` computes the digest of its message (R101, R133). -/
def Obligations.HashPseudoOperationComputesSipHash24 : Prop :=
  ∀ (msg : List Byte) (s : State), s.err = false →
    ∃ t, serveAll (hashEvents msg) s = .next t ∧ t.digest = sipHash24 msg s.k0 s.k1 ∧ t.dv = true ∧ t.err = false

/-- The key is sampled at `INIT`, `ENCODE` and `DECODE` only (R143): every other command but `RST` does the same under any key,
and `INIT` uses the key registers as they stand. -/
def Obligations.KeyIsSampledAtInitOnly : Prop :=
  (∀ (i : Instr) (s t : State) (a b : Word), i ≠ .init → i ≠ .encode → i ≠ .decode → i ≠ .rst → exec i s = .next t →
    exec i { s with k0 := a, k1 := b } = .next { t with k0 := a, k1 := b }) ∧
  (∀ (s t : State) (a b : Word), s.err = false → exec .init { s with k0 := a, k1 := b } = .next t → t.v = initWords a b)

/-- Frame of the streaming commands: the key, `MDATA`, `ID_IN`, `ID_OUT`, `OV`, `TIME` are unchanged; `ABSB` and `ABSW` leave `ACT`,
`DV`, `DIGEST` unchanged, `FINAL` leaves `LEN`; the fault record changes only by `SEQ` (R138 to R141). -/
def Obligations.StreamingCommandsFrame : Prop :=
  ∀ (i : Instr) (s t : State), (i = .init ∨ (∃ x, i = .absb x) ∨ (∃ n, i = .absw n) ∨ i = .final) → exec i s = .next t →
    (t.k0 = s.k0 ∧ t.k1 = s.k1 ∧ t.mdata = s.mdata ∧ t.idIn = s.idIn ∧ t.idOut = s.idOut ∧ t.ov = s.ov ∧ t.time = s.time ∧
      t.port = s.port ∧ t.lastRead = s.lastRead) ∧
    ((∃ x, i = .absb x) ∨ (∃ n, i = .absw n) → t.act = s.act ∧ t.dv = s.dv ∧ t.digest = s.digest) ∧
    (i = .final → t.len = s.len) ∧
    (i = .init ∨ s.act = true ∨ s.err = true → t.err = s.err ∧ t.errCode = s.errCode ∧ t.errInfo = s.errInfo)

/-! ### Facade Transform (spec/41_facade.md) -/

/-- The message reads no bit of the timestamp, the version or the variant, nor byte 15: identifiers that agree on bytes 7 and 9 to
14 and on the low bits of bytes 6 and 8 have the same message and the same mask (R173). -/
def Obligations.FacadeMessageIgnoresTimestampAndMetadata : Prop :=
  ∀ (a b : Ident) (k0 k1 : Word), a[7] = b[7] → a[9] = b[9] → a[10] = b[10] → a[11] = b[11] → a[12] = b[12] → a[13] = b[13] →
    a[14] = b[14] → a[6].extractLsb' 0 4 = b[6].extractLsb' 0 4 → a[8].extractLsb' 0 6 = b[8].extractLsb' 0 6 →
    facadeMsg a = facadeMsg b ∧ mask48 a k0 k1 = mask48 b k0 k1

/-- The result always has the version written and variant bits `10`, whatever the input's metadata (R178). -/
def Obligations.TransformForcesVersionAndVariant : Prop :=
  ∀ (id : Ident) (k0 k1 : Word),
    version (transform id k0 k1 4) = 4 ∧ variant (transform id k0 k1 4) = 0b10 ∧
    version (transform id k0 k1 7) = 7 ∧ variant (transform id k0 k1 7) = 0b10

/-- The transform and its message in word form (R181). -/
def Obligations.TransformHasTheWordForm : Prop :=
  ∀ (id : Ident) (k0 k1 : Word) (ver : BitVec 4),
    let hi := idHi id
    let lo := idLo id
    let d := sipHash24 (facadeMsg id) k0 k1
    facadeMsg id = [(hi.extractLsb' 8 4).setWidth 8, hi.extractLsb' 0 8, (lo.extractLsb' 56 6).setWidth 8,
      lo.extractLsb' 48 8, lo.extractLsb' 40 8, lo.extractLsb' 32 8, lo.extractLsb' 24 8, lo.extractLsb' 16 8,
      lo.extractLsb' 8 8] ∧
    idHi (transform id k0 k1 ver) =
      (hi ^^^ ((d.extractLsb' 0 48).setWidth 64 <<< 16)) &&& 0xFFFFFFFFFFFF0FFF ||| (ver.setWidth 64 <<< 12) ∧
    idLo (transform id k0 k1 ver) = lo &&& 0x3FFFFFFFFFFFFFFF ||| 0x8000000000000000

/-- The round trip (R177): timestamp and payload are restored, the metadata reads 7 and `10`, so the identifier comes back bit
for bit if and only if it had version 7 and variant `10`; and the same in the other order with version 4. -/
def Obligations.RoundTripRestoresTimestampAndPayload : Prop :=
  ∀ (id : Ident) (k0 k1 : Word),
    let r := transform (transform id k0 k1 4) k0 k1 7
    (∀ k : Fin 16, k ≠ 6 → k ≠ 8 → r[k] = id[k]) ∧
    r[6].extractLsb' 0 4 = id[6].extractLsb' 0 4 ∧ r[8].extractLsb' 0 6 = id[8].extractLsb' 0 6 ∧
    version r = 7 ∧ variant r = 0b10 ∧
    (r = id ↔ version id = 7 ∧ variant id = 0b10) ∧
    (transform (transform id k0 k1 7) k0 k1 4 = id ↔ version id = 4 ∧ variant id = 0b10)

/-- `ENCODE` (R175): the commands of the digest on the shared datapath, then the version-4 transform of `ID_IN` into `ID_OUT`; it
completes whenever `ERR = 0`, and any other word with its opcode is illegal. -/
def Obligations.EncodeMakesTheFacade : Prop :=
  (∀ s : State, s.err = false →
    ∃ u, execAll ([.init] ++ (facadeMsg s.idIn).map .absb ++ [.final]) s = .next u ∧
      exec .encode s = .next { u with idOut := transform s.idIn s.k0 s.k1 4, ov := true }) ∧
  (∀ w : Word, w.extractLsb' 0 8 = 0x10 → (decode w = .instr .encode ↔ w.extractLsb' 8 56 = 0) ∧
    (w.extractLsb' 8 56 ≠ 0 → ∃ why, decode w = .illegal why))

/-- `DECODE` (R176): the commands of the digest on the shared datapath, then the version-7 transform of `ID_IN` into `ID_OUT`; it
completes whenever `ERR = 0`, and any other word with its opcode is illegal. -/
def Obligations.DecodeRecoversTheIdentifier : Prop :=
  (∀ s : State, s.err = false →
    ∃ u, execAll ([.init] ++ (facadeMsg s.idIn).map .absb ++ [.final]) s = .next u ∧
      exec .decode s = .next { u with idOut := transform s.idIn s.k0 s.k1 7, ov := true }) ∧
  (∀ w : Word, w.extractLsb' 0 8 = 0x11 → (decode w = .instr .decode ↔ w.extractLsb' 8 56 = 0) ∧
    (w.extractLsb' 8 56 ≠ 0 → ∃ why, decode w = .illegal why))

/-- After `ENCODE` or `DECODE` the datapath holds the finished digest of the facade message, of which the transform used the low
48 bits; a message in progress is abandoned (R182, R175 steps 4 and 5); everything but the datapath, `ID_OUT` and `OV` is
unchanged. -/
def Obligations.EncodeAndDecodeLeaveTheFacadeDigest : Prop :=
  ∀ (i : Instr) (s t : State), (i = .encode ∨ i = .decode) → s.err = false → exec i s = .next t →
    t.digest = sipHash24 (facadeMsg s.idIn) s.k0 s.k1 ∧ mask48 s.idIn s.k0 s.k1 = t.digest.extractLsb' 0 48 ∧
    t.dv = true ∧ t.act = false ∧ t.nb = 0 ∧ t.tail = 0 ∧ t.len = 9 ∧ t.ov = true ∧
    t.k0 = s.k0 ∧ t.k1 = s.k1 ∧ t.mdata = s.mdata ∧ t.idIn = s.idIn ∧ t.time = s.time ∧
    t.err = s.err ∧ t.errCode = s.errCode ∧ t.errInfo = s.errInfo ∧ t.port = s.port ∧ t.lastRead = s.lastRead

/-- `DECODE` and `ENCODE` of the same `ID_IN` under the same key give the same digest and identifiers that differ only in the
version nibble (R176). -/
def Obligations.EncodeAndDecodeDifferOnlyInTheVersion : Prop :=
  ∀ s a b : State, s.err = false → exec .encode s = .next a → exec .decode s = .next b →
    a.digest = b.digest ∧ (∀ k : Fin 16, k ≠ 6 → a.idOut[k] = b.idOut[k]) ∧
    a.idOut[6].extractLsb' 0 4 = b.idOut[6].extractLsb' 0 4 ∧ version a.idOut = 4 ∧ version b.idOut = 7

/-- `GEN7` (R184): `OUT_HI = (TIME[47:0] << 16) | 0x7000 | zext_64(ID_IN_HI[11:0])`,
`OUT_LO = (ID_IN_LO & 0x3FFFFFFFFFFFFFFF) | 0x8000000000000000`, `OV <- 1`, nothing else; it completes whenever `ERR = 0`. -/
def Obligations.Gen7StampsTimeAndSuppliedBytes : Prop :=
  (∀ s : State, s.err = false →
    ∃ out, exec .gen7 s = .next { s with idOut := out, ov := true } ∧
      idHi out = ((s.time.extractLsb' 0 48).setWidth 64 <<< 16) ||| 0x7000 |||
        ((idHi s.idIn).extractLsb' 0 12).setWidth 64 ∧
      idLo out = idLo s.idIn &&& 0x3FFFFFFFFFFFFFFF ||| 0x8000000000000000) ∧
  (∀ w : Word, w.extractLsb' 0 8 = 0x12 → (decode w = .instr .gen7 ↔ w.extractLsb' 8 56 = 0))

/-- Only `TIME mod 2^48` is used, and no flag records the truncation: the timestamp stamped is `TIME` modulo 2^48, and a `TIME`
that differs only above bit 47 gives the same state but for `TIME` (R185). -/
def Obligations.Gen7WrapsTheTimeModulo48Bits : Prop :=
  ∀ (s t : State) (x : Word), s.err = false → exec .gen7 s = .next t →
    (timestamp t.idOut).toNat = s.time.toNat % 2 ^ 48 ∧
    (x.toNat % 2 ^ 48 = s.time.toNat % 2 ^ 48 → exec .gen7 { s with time := x } = .next { t with time := x })

/-- The whole trip on the machine (R177, R101): `ENCODE`, `MOVOI`, `DECODE` from any state with `ERR = 0` answer the host's two reads
with the facade (the host's copy is the model's `lastRead`, log 3) and end with the identifier's timestamp and payload under
version 7 and variant `10`; the identifier itself when it had them. -/
def Obligations.EncodeMovoiDecodeReturnsTheIdentifier : Prop :=
  ∀ s : State, s.err = false →
    let f := transform s.idIn s.k0 s.k1 4
    (∃ t, serveAll [command .encode, rd .idOutHi] s = .next t ∧ t.lastRead = some (idHi f)) ∧
    (∃ t, serveAll [command .encode, rd .idOutHi, rd .idOutLo] s = .next t ∧ t.lastRead = some (idLo f)) ∧
    ∃ t, serveAll ([command .encode] ++ movoi (idHi f) (idLo f) ++ [command .decode]) s = .next t ∧ t.err = false ∧
      t.idIn = f ∧ timestamp t.idOut = timestamp s.idIn ∧ facadeMsg t.idOut = facadeMsg s.idIn ∧
      t.idOut[15] = s.idIn[15] ∧ version t.idOut = 7 ∧ variant t.idOut = 0b10 ∧
      (version s.idIn = 7 → variant s.idIn = 0b10 → t.idOut = s.idIn)

/-- Frame of `GEN7`: the SipHash datapath, the key, the operand registers and the fault record are unchanged (R184). -/
def Obligations.Gen7Frame : Prop :=
  ∀ s t : State, exec .gen7 s = .next t →
    t.v = s.v ∧ t.tail = s.tail ∧ t.nb = s.nb ∧ t.len = s.len ∧ t.act = s.act ∧ t.digest = s.digest ∧ t.dv = s.dv ∧
    t.k0 = s.k0 ∧ t.k1 = s.k1 ∧ t.mdata = s.mdata ∧ t.idIn = s.idIn ∧ t.time = s.time ∧
    t.err = s.err ∧ t.errCode = s.errCode ∧ t.errInfo = s.errInfo ∧ t.port = s.port ∧ t.lastRead = s.lastRead

/-! ### System, faults, reset (spec/42_system.md, 60_exceptions.md, 70_reset_and_hazards.md) -/

/-- `RST` (R200): every state element takes its reset value, in any state, the faulted one too; another word with its opcode is
illegal when `ERR = 0` and ignored when `ERR = 1`. -/
def Obligations.RstResetsEveryStateElement : Prop :=
  (∀ s : State, ∃ t, exec .rst s = .next t ∧ AllZero t) ∧
  (∀ w : Word, w.extractLsb' 0 8 = 0x7F → (decode w = .instr .rst ↔ w.extractLsb' 8 56 = 0) ∧
    (w.extractLsb' 8 56 ≠ 0 → (∃ why, decode w = .illegal why) ∧
      ∀ s : State, s.err = false →
        writePort 0x18 w s = .next { s with err := true, errCode := 1, errInfo := w.extractLsb' 0 16 })) ∧
  (∀ (s : State) (w : Word), s.err = true → w ≠ 0x7F → writePort 0x18 w s = .next s)

/-- After a hardware reset and after `RST`, from any state, every state element is 0 and every implemented register reads 0 (R43). -/
def Obligations.ResetLeavesEveryElementZero : Prop :=
  ∀ (s : State) (e : PortEvent), (e = .reset ∨ e = .write 0x18 0x7F) →
    ∃ t, serve e s = .next t ∧ AllZero t ∧ ∀ r : Reg, readReg r t = 0

/-- A hardware reset or `RST` resets the block and nothing of the environment: the transactions still to come and the data the host
holds stay (the model's own fields, log 7); the state is otherwise `State.reset`. -/
def Obligations.ResetLeavesTheEnvironmentAlone : Prop :=
  ∀ s : State,
    serve .reset s = .next { State.reset with port := s.port, lastRead := s.lastRead } ∧
    exec .rst s = .next { State.reset with port := s.port, lastRead := s.lastRead }

/-- The model's state after reset is the state R241 gives: every element zero. -/
def Obligations.ResetStateIsAllZero : Prop :=
  AllZero State.reset

/-- `SEQ` in full (R213): a legally encoded `ABSB`, `ABSW` or `FINAL` with `ACT = 0` records code 2 and `w[15:0]` and does nothing else;
the other five commands never raise it. -/
def Obligations.SequenceFaultOnlyWithoutAMessage : Prop :=
  (∀ (i : Instr) (s : State) (w : Word), ((∃ x, i = .absb x) ∨ (∃ n, i = .absw n) ∨ i = .final) →
    decode w = .instr i → s.err = false → s.act = false →
    writePort 0x18 w s = .next { s with err := true, errCode := 2, errInfo := w.extractLsb' 0 16 }) ∧
  (∀ (i : Instr) (s t : State), (i = .init ∨ i = .encode ∨ i = .decode ∨ i = .gen7 ∨ i = .rst) → s.err = false →
    exec i s = .next t → t.err = false)

/-- `ILLCMD` in full (R212): when `ERR = 0`, each of its four conditions on the word written to `CMD`, whatever `ACT` is, records code 1
and `w[15:0]` and does nothing else; and no other word raises it. -/
def Obligations.IllegalWordsFaultAndDoNothingElse : Prop :=
  ∀ (s : State) (w : Word), s.err = false →
    let illegal := w.extractLsb' 16 48 ≠ 0 ∨
      w.extractLsb' 0 8 ∉ [(0x01 : BitVec 8), 0x02, 0x03, 0x04, 0x10, 0x11, 0x12, 0x7F] ∨
      (w.extractLsb' 0 8 ∈ [(0x01 : BitVec 8), 0x04, 0x10, 0x11, 0x12, 0x7F] ∧ w.extractLsb' 8 8 ≠ 0) ∨
      (w.extractLsb' 0 8 = 0x03 ∧ w.extractLsb' 11 5 ≠ 0)
    (illegal → writePort 0x18 w s = .next { s with err := true, errCode := 1, errInfo := w.extractLsb' 0 16 }) ∧
    (¬illegal → ∃ i, decode w = .instr i ∧ writePort 0x18 w s = exec i s)

/-- Fault entry (R214): when `ERR = 0`, `raise Fault(code, info)` writes `ERR`, `ERRCODE`, `ERRINFO` and nothing else; a cause met in
the faulted state is not recorded (R219). -/
def Obligations.FaultEntryWritesTheRecordOnly : Prop :=
  ∀ (s : State) (info : BitVec 16),
    (s.err = false →
      raiseFault .illcmd info s = { s with err := true, errCode := 1, errInfo := info } ∧
      raiseFault .seq info s = { s with err := true, errCode := 2, errInfo := info } ∧
      raiseFault .badacc info s = { s with err := true, errCode := 3, errInfo := info }) ∧
    (∀ c, s.err = true → raiseFault c info s = s)

/-- The faulted state and its only exits (R217, R218): while `ERR = 1` every event but a hardware reset and a write of exactly `RST`'s
word to `CMD` leaves the block as it is, and those two put every state element at its reset value. -/
def Obligations.FaultedStateLeavesOnlyByReset : Prop :=
  ∀ (s : State) (e : PortEvent), s.err = true →
    (¬Exits e → ∃ t, serve e s = .next t ∧ SameBlock s t) ∧
    (Exits e → ∃ t, serve e s = .next t ∧ AllZero t)

/-! ### Invariants (spec/10_state.md R42) and rules of the whole machine -/

/-- Every step keeps the invariants R42 (a) to (e). -/
def Obligations.EveryStepKeepsTheInvariants : Prop :=
  ∀ s t : State, Inv s → step s = .next t → Inv t

/-- Every step keeps `NB = 0` with no message in progress and `DV = 0` with one (R24, R25, 90 C10). -/
def Obligations.EveryStepKeepsTheMessageInvariant : Prop :=
  ∀ s t : State, MessageInv s → step s = .next t → MessageInv t

/-- Every step keeps a delivered result's metadata: variant `10`, version 4 or 7 (R178, R184). -/
def Obligations.EveryStepKeepsResultMetadata : Prop :=
  ∀ s t : State, ResultInv s → step s = .next t → ResultInv t

/-- Every step keeps the fault record one its cause can produce (R211 to R213, R215). -/
def Obligations.EveryStepKeepsTheFaultRecord : Prop :=
  ∀ s t : State, FaultRecordInv s → step s = .next t → FaultRecordInv t

/-- The state after reset meets every invariant. -/
def Obligations.ResetMeetsTheInvariants : Prop :=
  Inv State.reset ∧ MessageInv State.reset ∧ ResultInv State.reset ∧ FaultRecordInv State.reset ∧ DatapathZero State.reset

/-- After reset the datapath stays zero until the first `INIT`, `ENCODE` or `DECODE` (R42 (f)). -/
def Obligations.DatapathStaysZeroUntilAMessage : Prop :=
  ∀ s t : State, DatapathZero s → step s = .next t →
    (∀ w rest i, s.port = .write 0x18 w :: rest → decode w = .instr i → i ≠ .init ∧ i ≠ .encode ∧ i ≠ .decode) →
    DatapathZero t

/-- `ACT` (R24): only `INIT` sets it, and only `FINAL`, `ENCODE`, `DECODE`, `RST` and reset clear it. -/
def Obligations.OnlyMessageCommandsChangeAct : Prop :=
  ∀ s t : State, step s = .next t →
    (s.act = false → t.act = true → ∃ w rest, s.port = .write 0x18 w :: rest ∧ decode w = .instr .init) ∧
    (s.act = true → t.act = false → ∃ e rest, s.port = e :: rest ∧
      (e = .reset ∨ ∃ w i, e = .write 0x18 w ∧ decode w = .instr i ∧
        (i = .final ∨ i = .encode ∨ i = .decode ∨ i = .rst)))

/-- `OV` is never cleared except by reset and `RST`, and `ID_OUT` changes only by `ENCODE`, `DECODE`, `GEN7`, `RST` and reset (R28). -/
def Obligations.ResultIsKeptUntilReplacedOrReset : Prop :=
  ∀ (s t : State) (e : PortEvent) (rest : List PortEvent), s.port = e :: rest → step s = .next t →
    (s.ov = true → ¬Exits e → t.ov = true) ∧
    (t.idOut ≠ s.idOut → e = .reset ∨ ∃ w i, e = .write 0x18 w ∧ decode w = .instr i ∧
      (i = .encode ∨ i = .decode ∨ i = .gen7 ∨ i = .rst))

/-- The key and the operand registers change only by the host's own write to them, and by reset and `RST` (R21, R26, R27, R29). -/
def Obligations.OperandRegistersAreWrittenOnlyByTheHost : Prop :=
  ∀ (s t : State) (e : PortEvent) (rest : List PortEvent), s.port = e :: rest → step s = .next t → ¬Exits e →
    (t.k0 ≠ s.k0 → ∃ d, e = .write 0x00 d ∧ t.k0 = d) ∧ (t.k1 ≠ s.k1 → ∃ d, e = .write 0x08 d ∧ t.k1 = d) ∧
    (t.mdata ≠ s.mdata → ∃ d, e = .write 0x10 d ∧ t.mdata = d) ∧ (t.time ≠ s.time → ∃ d, e = .write 0x50 d ∧ t.time = d) ∧
    (t.idIn ≠ s.idIn → ∃ d, (e = .write 0x30 d ∧ idHi t.idIn = d ∧ idLo t.idIn = idLo s.idIn) ∨
      (e = .write 0x38 d ∧ idLo t.idIn = d ∧ idHi t.idIn = idHi s.idIn))

/-- Hidden state reaches the host only through `DIGEST` and `ID_OUT` (R41): two states with the same visible elements, given the
same event, answer the host the same and agree on every visible element but `DIGEST` and `ID_OUT`, and on those too unless the
event is a `FINAL`, an `ENCODE` or a `DECODE`. -/
def Obligations.HiddenStateShowsOnlyInDigestAndIdOut : Prop :=
  ∀ (s t s' t' : State) (e : PortEvent) (rest : List PortEvent), SameVisible s t → s.lastRead = t.lastRead →
    s.port = e :: rest → t.port = e :: rest → step s = .next s' → step t = .next t' →
    s'.lastRead = t'.lastRead ∧ s'.port = t'.port ∧
    SameVisible s' { t' with digest := s'.digest, idOut := s'.idOut } ∧
    ((∀ w i, e = .write 0x18 w → decode w = .instr i → i ≠ .final ∧ i ≠ .encode ∧ i ≠ .decode) → SameVisible s' t')

/-! ### The command `ABSB` (spec/40_siphash.md R139, R136) -/

/-- `ABSB` (R139): for every byte and every state with `ERR = 0` and `ACT = 1` it completes and does `AbsorbByte` (R136), and nothing
else changes; its word is `(x << 8) | 0x02`; with `ACT = 0` it records `SEQ`, and with a bit of 63:16 set the word records `ILLCMD`,
whatever `ACT` is; and the rule's example. -/
def Obligations.AbsbCompletesInAMessage : Prop :=
  (∀ (s : State) (x : Byte), s.err = false → s.act = true →
    ∃ t, exec (.absb x) s = .next t ∧ t = { s with v := t.v, tail := t.tail, nb := s.nb + 1, len := s.len + 1 } ∧
      (s.nb ≠ 7 → t.v = s.v ∧ t.tail = s.tail ||| (x.setWidth 64 <<< (8 * s.nb.toNat))) ∧
      (s.nb = 7 → t.v = compress (s.tail ||| (x.setWidth 64 <<< 56)) s.v ∧ t.tail = 0)) ∧
  (∀ x : Byte, decode ((x.setWidth 64 <<< 8) ||| 0x02) = .instr (.absb x)) ∧
  (∀ (s : State) (w : Word), s.err = false → w.extractLsb' 0 8 = 0x02 →
    (w.extractLsb' 16 48 = 0 → s.act = true → writePort 0x18 w s = exec (.absb (w.extractLsb' 8 8)) s) ∧
    (w.extractLsb' 16 48 = 0 → s.act = false →
      writePort 0x18 w s = .next { s with err := true, errCode := 2, errInfo := w.extractLsb' 0 16 }) ∧
    (w.extractLsb' 16 48 ≠ 0 →
      writePort 0x18 w s = .next { s with err := true, errCode := 1, errInfo := w.extractLsb' 0 16 })) ∧
  (∀ s : State, s.err = false →
    ∃ u t, exec .init s = .next u ∧ exec (.absb 0x61) u = .next t ∧ t.tail = 0x61 ∧ t.nb = 1 ∧ t.len = 1 ∧ t.v = u.v ∧
      (s.ov = false → s.errCode = 0 → s.errInfo = 0 → statusWord t = 0x0000000000010102))

/-- Eight `ABSB` from an empty buffer are one block: after the bytes `x0` to `x7` from `NB = 0`, the block compressed is
`LE64(x0..x7)` (R136, R106), `LEN` has counted eight, and nothing else has changed. -/
def Obligations.EightAbsbCompressOneBlock : Prop :=
  ∀ (s : State) (bytes : List Byte), bytes.length = 8 → s.err = false → s.act = true → s.nb = 0 → s.tail = 0 →
    execAll (bytes.map .absb) s = .next { s with v := compress (le64 bytes) s.v, len := s.len + 8 }
end

