-- ==== Sys2Proof/Laws/Bytes.lean ====
section
/-! SUPPORT. The byte-order operations (spec/00_scope.md R13): each byte of a packed word is the byte that was packed, and
packing the bytes of a word gives the word back. -/

namespace Sys2Proof.Machine

/-! ### Big-endian words -/

/-- Byte `i` of `BE64(B)` is `B[i]`. -/
theorem be64Byte_be64 (b0 b1 b2 b3 b4 b5 b6 b7 : Byte) :
    be64Byte (be64 b0 b1 b2 b3 b4 b5 b6 b7) 0 = b0 ∧ be64Byte (be64 b0 b1 b2 b3 b4 b5 b6 b7) 1 = b1 ∧
    be64Byte (be64 b0 b1 b2 b3 b4 b5 b6 b7) 2 = b2 ∧ be64Byte (be64 b0 b1 b2 b3 b4 b5 b6 b7) 3 = b3 ∧
    be64Byte (be64 b0 b1 b2 b3 b4 b5 b6 b7) 4 = b4 ∧ be64Byte (be64 b0 b1 b2 b3 b4 b5 b6 b7) 5 = b5 ∧
    be64Byte (be64 b0 b1 b2 b3 b4 b5 b6 b7) 6 = b6 ∧ be64Byte (be64 b0 b1 b2 b3 b4 b5 b6 b7) 7 = b7 := by
  refine ⟨?_, ?_, ?_, ?_, ?_, ?_, ?_, ?_⟩ <;>
    · apply BitVec.eq_of_getLsbD_eq
      intro j hj
      interval_cases j <;> simp [be64, be64Byte]

/-- `BE64(BE64bytes(w)) = w` (R13: the two are inverse). -/
theorem be64_be64Byte (w : Word) :
    be64 (be64Byte w 0) (be64Byte w 1) (be64Byte w 2) (be64Byte w 3) (be64Byte w 4) (be64Byte w 5) (be64Byte w 6)
      (be64Byte w 7) = w := by
  apply BitVec.eq_of_getLsbD_eq
  intro j hj
  interval_cases j <;> simp [be64, be64Byte]

/-- Byte `i` of `BE48(B)` is `B[i]`. -/
theorem be48Byte_be48 (b0 b1 b2 b3 b4 b5 : Byte) :
    be48Byte (be48 b0 b1 b2 b3 b4 b5) 0 = b0 ∧ be48Byte (be48 b0 b1 b2 b3 b4 b5) 1 = b1 ∧
    be48Byte (be48 b0 b1 b2 b3 b4 b5) 2 = b2 ∧ be48Byte (be48 b0 b1 b2 b3 b4 b5) 3 = b3 ∧
    be48Byte (be48 b0 b1 b2 b3 b4 b5) 4 = b4 ∧ be48Byte (be48 b0 b1 b2 b3 b4 b5) 5 = b5 := by
  refine ⟨?_, ?_, ?_, ?_, ?_, ?_⟩ <;>
    · apply BitVec.eq_of_getLsbD_eq
      intro j hj
      interval_cases j <;> simp [be48, be48Byte]

/-- `BE48(BE48bytes(t)) = t`. -/
theorem be48_be48Byte (t : BitVec 48) :
    be48 (be48Byte t 0) (be48Byte t 1) (be48Byte t 2) (be48Byte t 3) (be48Byte t 4) (be48Byte t 5) = t := by
  apply BitVec.eq_of_getLsbD_eq
  intro j hj
  interval_cases j <;> simp [be48, be48Byte]

/-! ### Little-endian words -/

@[simp] theorem le64_nil : le64 [] = 0 := rfl

theorem le64_cons (b : Byte) (bytes : List Byte) : le64 (b :: bytes) = b.setWidth 64 ||| (le64 bytes <<< 8) := rfl

/-- Appending bytes puts them above the ones already packed. -/
theorem le64_append (xs ys : List Byte) : le64 (xs ++ ys) = le64 xs ||| (le64 ys <<< (8 * xs.length)) := by
  induction xs with
  | nil => simp
  | cons x rest ih =>
    rw [List.cons_append, le64_cons, le64_cons, ih, BitVec.shiftLeft_or_distrib, ← BitVec.shiftLeft_add, BitVec.or_assoc,
      List.length_cons, Nat.mul_succ]

@[simp] theorem mdataBytes_length (mdata : Word) (n : Nat) : (mdataBytes mdata n).length = n := by
  simp [mdataBytes]

/-- One more byte of `MDATA` is the next byte in message order (R26). -/
theorem mdataBytes_succ (mdata : Word) (n : Nat) :
    mdataBytes mdata (n + 1) = mdataBytes mdata n ++ [mdataByte mdata n] := by
  simp [mdataBytes, List.range_succ]

/-! ### Identifiers -/

/-- Two identifiers are equal when their sixteen bytes are. -/
theorem ident_ext {a b : Ident} (h : ∀ i : Fin 16, a[i] = b[i]) : a = b := by
  apply Vector.ext
  intro i hi
  exact h ⟨i, hi⟩

/-- Reading back the `HI` half just written (R63, R67). -/
theorem idHi_setIdHi (id : Ident) (w : Word) : idHi (setIdHi id w) = w := be64_be64Byte w

/-- Reading back the `LO` half just written (R63, R67). -/
theorem idLo_setIdLo (id : Ident) (w : Word) : idLo (setIdLo id w) = w := be64_be64Byte w

theorem idLo_setIdHi (id : Ident) (w : Word) : idLo (setIdHi id w) = idLo id := rfl

theorem idHi_setIdLo (id : Ident) (w : Word) : idHi (setIdLo id w) = idHi id := rfl

/-- An identifier is its two halves: writing both halves of another identifier copies it (R63). -/
theorem setIdLo_setIdHi (id out : Ident) : setIdLo (setIdHi id (idHi out)) (idLo out) = out := by
  have hHi := be64Byte_be64 out[0] out[1] out[2] out[3] out[4] out[5] out[6] out[7]
  have hLo := be64Byte_be64 out[8] out[9] out[10] out[11] out[12] out[13] out[14] out[15]
  apply Vector.ext
  intro i hi
  interval_cases i <;> simp [setIdLo, setIdHi, idHi, idLo, hHi, hLo]

/-- The timestamp written by `stamp` is the timestamp read (R174 step 3). -/
theorem timestamp_stamp (id : Ident) (ts : BitVec 48) (ver : BitVec 4) : timestamp (stamp id ts ver) = ts :=
  be48_be48Byte ts

@[simp] theorem facadeMsg_length (id : Ident) : (facadeMsg id).length = 9 := rfl

end Sys2Proof.Machine
end

