-- ==== Sys2Proof/Laws/Decode.lean ====
section
/-! SUPPORT. What the decoder answers, once and for all (spec/30_encoding.md R97), and when two command words are equal. -/

namespace Sys2Proof

/-- A word is its `OP`, its `ARG` and its bits 63:16 (R90). -/
theorem word_eq_of_fields {w v : Word} (hop : opField w = opField v) (harg : argField w = argField v)
    (hhigh : reservedHigh w = reservedHigh v) : w = v := by
  apply BitVec.eq_of_getLsbD_eq
  intro j hj
  have a := congrArg (fun x => x.getLsbD j) hop
  have b := congrArg (fun x => x.getLsbD (j - 8)) harg
  have c := congrArg (fun x => x.getLsbD (j - 16)) hhigh
  simp only [opField, argField, reservedHigh, BitVec.getLsbD_extractLsb'] at a b c
  by_cases h8 : j < 8
  · simpa [h8] using a
  · by_cases h16 : j < 16
    · simpa [show 8 + (j - 8) = j by omega, show j - 8 < 8 by omega] using b
    · simpa [show 16 + (j - 16) = j by omega, show j - 16 < 48 by omega] using c

/-- With bits 15:11 zero, `ARG` is `NM1` (R90, format N). -/
theorem argField_of_reservedN {w : Word} (h : reservedN w = 0) : argField w = (nm1Field w).setWidth 8 := by
  apply BitVec.eq_of_getLsbD_eq
  intro j hj
  have a := congrArg (fun x => x.getLsbD (j - 3)) h
  simp only [reservedN, argField, nm1Field, BitVec.getLsbD_extractLsb', BitVec.getLsbD_setWidth] at *
  by_cases h3 : j < 3
  · simp [h3, hj]
  · simp only [show 11 + (j - 3) = 8 + j by omega, show j - 3 < 5 by omega] at a
    simp at a
    simp [h3, hj, a]

/-- The operand conditions of a legal word with opcode `op`, and the command it is (R97 step 3). -/
def LegalAs (w : Word) (i : Instr) : Prop :=
  match i with
  | .init => opField w = 0x01 ∧ argField w = 0
  | .absb imm8 => opField w = 0x02 ∧ argField w = imm8
  | .absw n => opField w = 0x03 ∧ reservedN w = 0 ∧ (nm1Field w).toNat + 1 = n
  | .final => opField w = 0x04 ∧ argField w = 0
  | .encode => opField w = 0x10 ∧ argField w = 0
  | .decode => opField w = 0x11 ∧ argField w = 0
  | .gen7 => opField w = 0x12 ∧ argField w = 0
  | .rst => opField w = 0x7F ∧ argField w = 0

theorem decodeZ_eq_instr {w : Word} {i k : Instr} : decodeZ w k = .instr i ↔ argField w = 0 ∧ i = k := by
  unfold decodeZ
  split <;> rename_i h <;> simp_all [eq_comm]

theorem decodeN_eq_instr {w : Word} {i : Instr} :
    decodeN w = .instr i ↔ reservedN w = 0 ∧ i = .absw ((nm1Field w).toNat + 1) := by
  unfold decodeN
  split <;> rename_i h <;> simp_all [eq_comm]

/-- Inversion of the decoder: a word that decodes has zero high bits and is legal as the command it decodes to (R97). -/
theorem legalAs_of_decode {w : Word} {i : Instr} (h : decode w = .instr i) : reservedHigh w = 0 ∧ LegalAs w i := by
  unfold decode at h
  by_cases hr : reservedHigh w = 0
  · rw [if_neg (not_not.mpr hr)] at h
    refine ⟨hr, ?_⟩
    split at h
    · obtain ⟨ha, rfl⟩ := decodeZ_eq_instr.mp h; exact ⟨‹_›, ha⟩
    split at h
    · injection h with h; subst h; exact ⟨‹_›, rfl⟩
    split at h
    · obtain ⟨hn, rfl⟩ := decodeN_eq_instr.mp h; exact ⟨‹_›, hn, rfl⟩
    split at h
    · obtain ⟨ha, rfl⟩ := decodeZ_eq_instr.mp h; exact ⟨‹_›, ha⟩
    split at h
    · obtain ⟨ha, rfl⟩ := decodeZ_eq_instr.mp h; exact ⟨‹_›, ha⟩
    split at h
    · obtain ⟨ha, rfl⟩ := decodeZ_eq_instr.mp h; exact ⟨‹_›, ha⟩
    split at h
    · obtain ⟨ha, rfl⟩ := decodeZ_eq_instr.mp h; exact ⟨‹_›, ha⟩
    split at h
    · obtain ⟨ha, rfl⟩ := decodeZ_eq_instr.mp h; exact ⟨‹_›, ha⟩
    · cases h
  · rw [if_pos hr] at h
    cases h

end Sys2Proof
end

