-- ==== Sys2Proof/Laws/State.lean ====
section
/-! SUPPORT. One lemma per field per update of State: what each named update does to each field, so that no later proof unfolds
a record update. -/

namespace Sys2Proof.Machine

/-! ### `startMessage` (R138) -/

@[simp] theorem startMessage_k0 (s : State) : (startMessage s).k0 = s.k0 := rfl
@[simp] theorem startMessage_k1 (s : State) : (startMessage s).k1 = s.k1 := rfl
@[simp] theorem startMessage_v (s : State) : (startMessage s).v = initWords s.k0 s.k1 := rfl
@[simp] theorem startMessage_tail (s : State) : (startMessage s).tail = 0 := rfl
@[simp] theorem startMessage_nb (s : State) : (startMessage s).nb = 0 := rfl
@[simp] theorem startMessage_len (s : State) : (startMessage s).len = 0 := rfl
@[simp] theorem startMessage_act (s : State) : (startMessage s).act = true := rfl
@[simp] theorem startMessage_digest (s : State) : (startMessage s).digest = 0 := rfl
@[simp] theorem startMessage_dv (s : State) : (startMessage s).dv = false := rfl
@[simp] theorem startMessage_mdata (s : State) : (startMessage s).mdata = s.mdata := rfl
@[simp] theorem startMessage_idIn (s : State) : (startMessage s).idIn = s.idIn := rfl
@[simp] theorem startMessage_idOut (s : State) : (startMessage s).idOut = s.idOut := rfl
@[simp] theorem startMessage_ov (s : State) : (startMessage s).ov = s.ov := rfl
@[simp] theorem startMessage_time (s : State) : (startMessage s).time = s.time := rfl
@[simp] theorem startMessage_err (s : State) : (startMessage s).err = s.err := rfl
@[simp] theorem startMessage_errCode (s : State) : (startMessage s).errCode = s.errCode := rfl
@[simp] theorem startMessage_errInfo (s : State) : (startMessage s).errInfo = s.errInfo := rfl
@[simp] theorem startMessage_port (s : State) : (startMessage s).port = s.port := rfl
@[simp] theorem startMessage_lastRead (s : State) : (startMessage s).lastRead = s.lastRead := rfl

/-! ### `finalize` (R137) -/

@[simp] theorem finalize_k0 (s : State) : (finalize s).k0 = s.k0 := rfl
@[simp] theorem finalize_k1 (s : State) : (finalize s).k1 = s.k1 := rfl
@[simp] theorem finalize_v (s : State) : (finalize s).v = finalRounds (compress (s.tail ||| lengthByte s.len) s.v) :=
  rfl
@[simp] theorem finalize_tail (s : State) : (finalize s).tail = 0 := rfl
@[simp] theorem finalize_nb (s : State) : (finalize s).nb = 0 := rfl
@[simp] theorem finalize_len (s : State) : (finalize s).len = s.len := rfl
@[simp] theorem finalize_act (s : State) : (finalize s).act = false := rfl
@[simp] theorem finalize_digest (s : State) : (finalize s).digest = digestOf (finalize s).v := rfl
@[simp] theorem finalize_dv (s : State) : (finalize s).dv = true := rfl
@[simp] theorem finalize_mdata (s : State) : (finalize s).mdata = s.mdata := rfl
@[simp] theorem finalize_idIn (s : State) : (finalize s).idIn = s.idIn := rfl
@[simp] theorem finalize_idOut (s : State) : (finalize s).idOut = s.idOut := rfl
@[simp] theorem finalize_ov (s : State) : (finalize s).ov = s.ov := rfl
@[simp] theorem finalize_time (s : State) : (finalize s).time = s.time := rfl
@[simp] theorem finalize_err (s : State) : (finalize s).err = s.err := rfl
@[simp] theorem finalize_errCode (s : State) : (finalize s).errCode = s.errCode := rfl
@[simp] theorem finalize_errInfo (s : State) : (finalize s).errInfo = s.errInfo := rfl
@[simp] theorem finalize_port (s : State) : (finalize s).port = s.port := rfl
@[simp] theorem finalize_lastRead (s : State) : (finalize s).lastRead = s.lastRead := rfl

/-! ### `absorbByte` (R136); its `V`, `TAIL` and `NB` depend on `NB` (Laws/Ops.lean) -/

@[simp] theorem absorbByte_k0 (s : State) (x : Byte) : (absorbByte s x).k0 = s.k0 := by
  unfold absorbByte; split <;> rfl
@[simp] theorem absorbByte_k1 (s : State) (x : Byte) : (absorbByte s x).k1 = s.k1 := by
  unfold absorbByte; split <;> rfl
@[simp] theorem absorbByte_len (s : State) (x : Byte) : (absorbByte s x).len = s.len + 1 := by
  unfold absorbByte; split <;> rfl
@[simp] theorem absorbByte_act (s : State) (x : Byte) : (absorbByte s x).act = s.act := by
  unfold absorbByte; split <;> rfl
@[simp] theorem absorbByte_digest (s : State) (x : Byte) : (absorbByte s x).digest = s.digest := by
  unfold absorbByte; split <;> rfl
@[simp] theorem absorbByte_dv (s : State) (x : Byte) : (absorbByte s x).dv = s.dv := by
  unfold absorbByte; split <;> rfl
@[simp] theorem absorbByte_mdata (s : State) (x : Byte) : (absorbByte s x).mdata = s.mdata := by
  unfold absorbByte; split <;> rfl
@[simp] theorem absorbByte_idIn (s : State) (x : Byte) : (absorbByte s x).idIn = s.idIn := by
  unfold absorbByte; split <;> rfl
@[simp] theorem absorbByte_idOut (s : State) (x : Byte) : (absorbByte s x).idOut = s.idOut := by
  unfold absorbByte; split <;> rfl
@[simp] theorem absorbByte_ov (s : State) (x : Byte) : (absorbByte s x).ov = s.ov := by
  unfold absorbByte; split <;> rfl
@[simp] theorem absorbByte_time (s : State) (x : Byte) : (absorbByte s x).time = s.time := by
  unfold absorbByte; split <;> rfl
@[simp] theorem absorbByte_err (s : State) (x : Byte) : (absorbByte s x).err = s.err := by
  unfold absorbByte; split <;> rfl
@[simp] theorem absorbByte_errCode (s : State) (x : Byte) : (absorbByte s x).errCode = s.errCode := by
  unfold absorbByte; split <;> rfl
@[simp] theorem absorbByte_errInfo (s : State) (x : Byte) : (absorbByte s x).errInfo = s.errInfo := by
  unfold absorbByte; split <;> rfl
@[simp] theorem absorbByte_port (s : State) (x : Byte) : (absorbByte s x).port = s.port := by
  unfold absorbByte; split <;> rfl
@[simp] theorem absorbByte_lastRead (s : State) (x : Byte) : (absorbByte s x).lastRead = s.lastRead := by
  unfold absorbByte; split <;> rfl

/-! ### `deliver` (R28) -/

@[simp] theorem deliver_k0 (s : State) (out : Ident) : (deliver s out).k0 = s.k0 := rfl
@[simp] theorem deliver_k1 (s : State) (out : Ident) : (deliver s out).k1 = s.k1 := rfl
@[simp] theorem deliver_v (s : State) (out : Ident) : (deliver s out).v = s.v := rfl
@[simp] theorem deliver_tail (s : State) (out : Ident) : (deliver s out).tail = s.tail := rfl
@[simp] theorem deliver_nb (s : State) (out : Ident) : (deliver s out).nb = s.nb := rfl
@[simp] theorem deliver_len (s : State) (out : Ident) : (deliver s out).len = s.len := rfl
@[simp] theorem deliver_act (s : State) (out : Ident) : (deliver s out).act = s.act := rfl
@[simp] theorem deliver_digest (s : State) (out : Ident) : (deliver s out).digest = s.digest := rfl
@[simp] theorem deliver_dv (s : State) (out : Ident) : (deliver s out).dv = s.dv := rfl
@[simp] theorem deliver_mdata (s : State) (out : Ident) : (deliver s out).mdata = s.mdata := rfl
@[simp] theorem deliver_idIn (s : State) (out : Ident) : (deliver s out).idIn = s.idIn := rfl
@[simp] theorem deliver_idOut (s : State) (out : Ident) : (deliver s out).idOut = out := rfl
@[simp] theorem deliver_ov (s : State) (out : Ident) : (deliver s out).ov = true := rfl
@[simp] theorem deliver_time (s : State) (out : Ident) : (deliver s out).time = s.time := rfl
@[simp] theorem deliver_err (s : State) (out : Ident) : (deliver s out).err = s.err := rfl
@[simp] theorem deliver_errCode (s : State) (out : Ident) : (deliver s out).errCode = s.errCode := rfl
@[simp] theorem deliver_errInfo (s : State) (out : Ident) : (deliver s out).errInfo = s.errInfo := rfl
@[simp] theorem deliver_port (s : State) (out : Ident) : (deliver s out).port = s.port := rfl
@[simp] theorem deliver_lastRead (s : State) (out : Ident) : (deliver s out).lastRead = s.lastRead := rfl

/-! ### `raiseFault` (R214): every element but the fault record is kept -/

@[simp] theorem raiseFault_k0 (c : FaultCause) (info : BitVec 16) (s : State) : (raiseFault c info s).k0 = s.k0 := by
  unfold raiseFault; split <;> simp_all
@[simp] theorem raiseFault_k1 (c : FaultCause) (info : BitVec 16) (s : State) : (raiseFault c info s).k1 = s.k1 := by
  unfold raiseFault; split <;> simp_all
@[simp] theorem raiseFault_v (c : FaultCause) (info : BitVec 16) (s : State) : (raiseFault c info s).v = s.v := by
  unfold raiseFault; split <;> simp_all
@[simp] theorem raiseFault_tail (c : FaultCause) (info : BitVec 16) (s : State) : (raiseFault c info s).tail = s.tail := by
  unfold raiseFault; split <;> simp_all
@[simp] theorem raiseFault_nb (c : FaultCause) (info : BitVec 16) (s : State) : (raiseFault c info s).nb = s.nb := by
  unfold raiseFault; split <;> simp_all
@[simp] theorem raiseFault_len (c : FaultCause) (info : BitVec 16) (s : State) : (raiseFault c info s).len = s.len := by
  unfold raiseFault; split <;> simp_all
@[simp] theorem raiseFault_act (c : FaultCause) (info : BitVec 16) (s : State) : (raiseFault c info s).act = s.act := by
  unfold raiseFault; split <;> simp_all
@[simp] theorem raiseFault_digest (c : FaultCause) (info : BitVec 16) (s : State) : (raiseFault c info s).digest = s.digest := by
  unfold raiseFault; split <;> simp_all
@[simp] theorem raiseFault_dv (c : FaultCause) (info : BitVec 16) (s : State) : (raiseFault c info s).dv = s.dv := by
  unfold raiseFault; split <;> simp_all
@[simp] theorem raiseFault_mdata (c : FaultCause) (info : BitVec 16) (s : State) : (raiseFault c info s).mdata = s.mdata := by
  unfold raiseFault; split <;> simp_all
@[simp] theorem raiseFault_idIn (c : FaultCause) (info : BitVec 16) (s : State) : (raiseFault c info s).idIn = s.idIn := by
  unfold raiseFault; split <;> simp_all
@[simp] theorem raiseFault_idOut (c : FaultCause) (info : BitVec 16) (s : State) : (raiseFault c info s).idOut = s.idOut := by
  unfold raiseFault; split <;> simp_all
@[simp] theorem raiseFault_ov (c : FaultCause) (info : BitVec 16) (s : State) : (raiseFault c info s).ov = s.ov := by
  unfold raiseFault; split <;> simp_all
@[simp] theorem raiseFault_time (c : FaultCause) (info : BitVec 16) (s : State) : (raiseFault c info s).time = s.time := by
  unfold raiseFault; split <;> simp_all
@[simp] theorem raiseFault_err (c : FaultCause) (info : BitVec 16) (s : State) : (raiseFault c info s).err = true := by
  unfold raiseFault; split <;> simp_all
@[simp] theorem raiseFault_port (c : FaultCause) (info : BitVec 16) (s : State) : (raiseFault c info s).port = s.port := by
  unfold raiseFault; split <;> simp_all
@[simp] theorem raiseFault_lastRead (c : FaultCause) (info : BitVec 16) (s : State) : (raiseFault c info s).lastRead = s.lastRead := by
  unfold raiseFault; split <;> simp_all

/-! ### `answerRead` (R66) -/

@[simp] theorem answerRead_k0 (s : State) (data : Word) : (answerRead (s, data)).k0 = s.k0 := rfl
@[simp] theorem answerRead_k1 (s : State) (data : Word) : (answerRead (s, data)).k1 = s.k1 := rfl
@[simp] theorem answerRead_v (s : State) (data : Word) : (answerRead (s, data)).v = s.v := rfl
@[simp] theorem answerRead_tail (s : State) (data : Word) : (answerRead (s, data)).tail = s.tail := rfl
@[simp] theorem answerRead_nb (s : State) (data : Word) : (answerRead (s, data)).nb = s.nb := rfl
@[simp] theorem answerRead_len (s : State) (data : Word) : (answerRead (s, data)).len = s.len := rfl
@[simp] theorem answerRead_act (s : State) (data : Word) : (answerRead (s, data)).act = s.act := rfl
@[simp] theorem answerRead_digest (s : State) (data : Word) : (answerRead (s, data)).digest = s.digest := rfl
@[simp] theorem answerRead_dv (s : State) (data : Word) : (answerRead (s, data)).dv = s.dv := rfl
@[simp] theorem answerRead_mdata (s : State) (data : Word) : (answerRead (s, data)).mdata = s.mdata := rfl
@[simp] theorem answerRead_idIn (s : State) (data : Word) : (answerRead (s, data)).idIn = s.idIn := rfl
@[simp] theorem answerRead_idOut (s : State) (data : Word) : (answerRead (s, data)).idOut = s.idOut := rfl
@[simp] theorem answerRead_ov (s : State) (data : Word) : (answerRead (s, data)).ov = s.ov := rfl
@[simp] theorem answerRead_time (s : State) (data : Word) : (answerRead (s, data)).time = s.time := rfl
@[simp] theorem answerRead_err (s : State) (data : Word) : (answerRead (s, data)).err = s.err := rfl
@[simp] theorem answerRead_errCode (s : State) (data : Word) : (answerRead (s, data)).errCode = s.errCode := rfl
@[simp] theorem answerRead_errInfo (s : State) (data : Word) : (answerRead (s, data)).errInfo = s.errInfo := rfl
@[simp] theorem answerRead_port (s : State) (data : Word) : (answerRead (s, data)).port = s.port := rfl
@[simp] theorem answerRead_lastRead (s : State) (data : Word) : (answerRead (s, data)).lastRead = some data := rfl

/-! ### `resetBlock` (R43, R200, R240) -/

@[simp] theorem resetBlock_k0 (s : State) : (resetBlock s).k0 = 0 := rfl
@[simp] theorem resetBlock_k1 (s : State) : (resetBlock s).k1 = 0 := rfl
@[simp] theorem resetBlock_v (s : State) : (resetBlock s).v = ⟨0, 0, 0, 0⟩ := rfl
@[simp] theorem resetBlock_tail (s : State) : (resetBlock s).tail = 0 := rfl
@[simp] theorem resetBlock_nb (s : State) : (resetBlock s).nb = 0 := rfl
@[simp] theorem resetBlock_len (s : State) : (resetBlock s).len = 0 := rfl
@[simp] theorem resetBlock_act (s : State) : (resetBlock s).act = false := rfl
@[simp] theorem resetBlock_digest (s : State) : (resetBlock s).digest = 0 := rfl
@[simp] theorem resetBlock_dv (s : State) : (resetBlock s).dv = false := rfl
@[simp] theorem resetBlock_mdata (s : State) : (resetBlock s).mdata = 0 := rfl
@[simp] theorem resetBlock_idIn (s : State) : (resetBlock s).idIn = State.reset.idIn := rfl
@[simp] theorem resetBlock_idOut (s : State) : (resetBlock s).idOut = State.reset.idOut := rfl
@[simp] theorem resetBlock_ov (s : State) : (resetBlock s).ov = false := rfl
@[simp] theorem resetBlock_time (s : State) : (resetBlock s).time = 0 := rfl
@[simp] theorem resetBlock_err (s : State) : (resetBlock s).err = false := rfl
@[simp] theorem resetBlock_errCode (s : State) : (resetBlock s).errCode = 0 := rfl
@[simp] theorem resetBlock_errInfo (s : State) : (resetBlock s).errInfo = 0 := rfl
@[simp] theorem resetBlock_port (s : State) : (resetBlock s).port = s.port := rfl
@[simp] theorem resetBlock_lastRead (s : State) : (resetBlock s).lastRead = s.lastRead := rfl

/-! ### `pushCommand` (R22) -/

@[simp] theorem pushCommand_k0 (w : Word) (s : State) : (pushCommand w s).k0 = s.k0 := rfl
@[simp] theorem pushCommand_k1 (w : Word) (s : State) : (pushCommand w s).k1 = s.k1 := rfl
@[simp] theorem pushCommand_v (w : Word) (s : State) : (pushCommand w s).v = s.v := rfl
@[simp] theorem pushCommand_tail (w : Word) (s : State) : (pushCommand w s).tail = s.tail := rfl
@[simp] theorem pushCommand_nb (w : Word) (s : State) : (pushCommand w s).nb = s.nb := rfl
@[simp] theorem pushCommand_len (w : Word) (s : State) : (pushCommand w s).len = s.len := rfl
@[simp] theorem pushCommand_act (w : Word) (s : State) : (pushCommand w s).act = s.act := rfl
@[simp] theorem pushCommand_digest (w : Word) (s : State) : (pushCommand w s).digest = s.digest := rfl
@[simp] theorem pushCommand_dv (w : Word) (s : State) : (pushCommand w s).dv = s.dv := rfl
@[simp] theorem pushCommand_mdata (w : Word) (s : State) : (pushCommand w s).mdata = s.mdata := rfl
@[simp] theorem pushCommand_idIn (w : Word) (s : State) : (pushCommand w s).idIn = s.idIn := rfl
@[simp] theorem pushCommand_idOut (w : Word) (s : State) : (pushCommand w s).idOut = s.idOut := rfl
@[simp] theorem pushCommand_ov (w : Word) (s : State) : (pushCommand w s).ov = s.ov := rfl
@[simp] theorem pushCommand_time (w : Word) (s : State) : (pushCommand w s).time = s.time := rfl
@[simp] theorem pushCommand_err (w : Word) (s : State) : (pushCommand w s).err = s.err := rfl
@[simp] theorem pushCommand_errCode (w : Word) (s : State) : (pushCommand w s).errCode = s.errCode := rfl
@[simp] theorem pushCommand_errInfo (w : Word) (s : State) : (pushCommand w s).errInfo = s.errInfo := rfl
@[simp] theorem pushCommand_port (w : Word) (s : State) : (pushCommand w s).port = .write 0x18 w :: s.port := rfl
@[simp] theorem pushCommand_lastRead (w : Word) (s : State) : (pushCommand w s).lastRead = s.lastRead := rfl

/-! ### `absorbBytes` (R140): every element outside the message buffer and the SipHash words is kept -/

@[simp] theorem absorbBytes_k0 (s : State) (bytes : List Byte) : (absorbBytes s bytes).k0 = s.k0 := by
  induction bytes generalizing s with
  | nil => rfl
  | cons x rest ih => exact (ih (absorbByte s x)).trans (absorbByte_k0 s x)

@[simp] theorem absorbBytes_k1 (s : State) (bytes : List Byte) : (absorbBytes s bytes).k1 = s.k1 := by
  induction bytes generalizing s with
  | nil => rfl
  | cons x rest ih => exact (ih (absorbByte s x)).trans (absorbByte_k1 s x)

@[simp] theorem absorbBytes_act (s : State) (bytes : List Byte) : (absorbBytes s bytes).act = s.act := by
  induction bytes generalizing s with
  | nil => rfl
  | cons x rest ih => exact (ih (absorbByte s x)).trans (absorbByte_act s x)

@[simp] theorem absorbBytes_digest (s : State) (bytes : List Byte) : (absorbBytes s bytes).digest = s.digest := by
  induction bytes generalizing s with
  | nil => rfl
  | cons x rest ih => exact (ih (absorbByte s x)).trans (absorbByte_digest s x)

@[simp] theorem absorbBytes_dv (s : State) (bytes : List Byte) : (absorbBytes s bytes).dv = s.dv := by
  induction bytes generalizing s with
  | nil => rfl
  | cons x rest ih => exact (ih (absorbByte s x)).trans (absorbByte_dv s x)

@[simp] theorem absorbBytes_mdata (s : State) (bytes : List Byte) : (absorbBytes s bytes).mdata = s.mdata := by
  induction bytes generalizing s with
  | nil => rfl
  | cons x rest ih => exact (ih (absorbByte s x)).trans (absorbByte_mdata s x)

@[simp] theorem absorbBytes_idIn (s : State) (bytes : List Byte) : (absorbBytes s bytes).idIn = s.idIn := by
  induction bytes generalizing s with
  | nil => rfl
  | cons x rest ih => exact (ih (absorbByte s x)).trans (absorbByte_idIn s x)

@[simp] theorem absorbBytes_idOut (s : State) (bytes : List Byte) : (absorbBytes s bytes).idOut = s.idOut := by
  induction bytes generalizing s with
  | nil => rfl
  | cons x rest ih => exact (ih (absorbByte s x)).trans (absorbByte_idOut s x)

@[simp] theorem absorbBytes_ov (s : State) (bytes : List Byte) : (absorbBytes s bytes).ov = s.ov := by
  induction bytes generalizing s with
  | nil => rfl
  | cons x rest ih => exact (ih (absorbByte s x)).trans (absorbByte_ov s x)

@[simp] theorem absorbBytes_time (s : State) (bytes : List Byte) : (absorbBytes s bytes).time = s.time := by
  induction bytes generalizing s with
  | nil => rfl
  | cons x rest ih => exact (ih (absorbByte s x)).trans (absorbByte_time s x)

@[simp] theorem absorbBytes_err (s : State) (bytes : List Byte) : (absorbBytes s bytes).err = s.err := by
  induction bytes generalizing s with
  | nil => rfl
  | cons x rest ih => exact (ih (absorbByte s x)).trans (absorbByte_err s x)

@[simp] theorem absorbBytes_errCode (s : State) (bytes : List Byte) : (absorbBytes s bytes).errCode = s.errCode := by
  induction bytes generalizing s with
  | nil => rfl
  | cons x rest ih => exact (ih (absorbByte s x)).trans (absorbByte_errCode s x)

@[simp] theorem absorbBytes_errInfo (s : State) (bytes : List Byte) : (absorbBytes s bytes).errInfo = s.errInfo := by
  induction bytes generalizing s with
  | nil => rfl
  | cons x rest ih => exact (ih (absorbByte s x)).trans (absorbByte_errInfo s x)

@[simp] theorem absorbBytes_port (s : State) (bytes : List Byte) : (absorbBytes s bytes).port = s.port := by
  induction bytes generalizing s with
  | nil => rfl
  | cons x rest ih => exact (ih (absorbByte s x)).trans (absorbByte_port s x)

@[simp] theorem absorbBytes_lastRead (s : State) (bytes : List Byte) : (absorbBytes s bytes).lastRead = s.lastRead := by
  induction bytes generalizing s with
  | nil => rfl
  | cons x rest ih => exact (ih (absorbByte s x)).trans (absorbByte_lastRead s x)

/-- `LEN` counts the absorbed bytes modulo 256 (R23). -/
theorem absorbBytes_len (s : State) (bytes : List Byte) :
    (absorbBytes s bytes).len = s.len + BitVec.ofNat 8 bytes.length := by
  induction bytes generalizing s with
  | nil => simp [absorbBytes]
  | cons x rest ih =>
    refine (ih (absorbByte s x)).trans ?_
    simp only [absorbByte_len, List.length_cons]
    apply BitVec.eq_of_toNat_eq
    have h1 : (1 : BitVec 8).toNat = 1 := rfl
    simp only [BitVec.toNat_add, BitVec.toNat_ofNat, h1]
    omega

end Sys2Proof.Machine
end

