-- ==== Sys2Proof/Laws/Ops.lean ====
section
/-! SUPPORT. One spec lemma per shared operation: what it answers, in each of its cases. Later proofs cite these and do not
unfold the operations. -/

namespace Sys2Proof.Machine

/-! ### The register map -/

/-- Each register is found at its offset (R31). -/
@[simp] theorem regAt_offset (r : Reg) : regAt r.offset = some r := by
  cases r <;> rfl

/-- A register found at an offset is the one whose offset that is (R31). -/
theorem offset_of_regAt {off : Offset} {r : Reg} (h : regAt off = some r) : off = r.offset := by
  have hall : ∀ o : Offset, (regAt o).all (fun q => o = q.offset) = true := by decide
  simpa [h] using hall off

/-- An offset holds no register exactly when it is bad (R40). -/
theorem regAt_eq_none_iff (off : Offset) : regAt off = none ↔ badOffset off = true := by
  revert off
  decide

/-! ### Faults -/

/-- Fault entry (R214). -/
theorem raiseFault_of_ok (c : FaultCause) (info : BitVec 16) {s : State} (h : s.err = false) :
    raiseFault c info s = { s with err := true, errCode := c.code, errInfo := info } := by
  simp [raiseFault, h]

/-- The first fault is kept (R219). -/
theorem raiseFault_of_err (c : FaultCause) (info : BitVec 16) {s : State} (h : s.err = true) :
    raiseFault c info s = s := by
  simp [raiseFault, h]

theorem acceptCommand_of_ok {s : State} (h : s.err = false) (go : Host.Outcome State Fault Refusal) :
    acceptCommand s go = go := by
  simp [acceptCommand, h]

theorem acceptCommand_of_err {s : State} (h : s.err = true) (go : Host.Outcome State Fault Refusal) :
    acceptCommand s go = .next s := by
  simp [acceptCommand, h]

theorem inMessage_of_act (i : Instr) {s : State} (h : s.act = true) (go : Host.Outcome State Fault Refusal) :
    inMessage i s go = go := by
  simp [inMessage, h]

theorem inMessage_of_idle (i : Instr) {s : State} (h : s.act = false) (go : Host.Outcome State Fault Refusal) :
    inMessage i s go = .next (raiseFault .seq (commandInfo i) s) := by
  simp [inMessage, h]

/-! ### Absorbing -/

/-- The eighth byte completes a block (R136 step 3). -/
theorem absorbByte_of_full {s : State} (h : s.nb = 7) (x : Byte) :
    absorbByte s x = { s with
      v := compress (s.tail ||| (x.setWidth 64 <<< (8 * s.nb.toNat))) s.v, tail := 0, nb := 0, len := s.len + 1 } := by
  simp [absorbByte, h]

/-- Any other byte is kept in `TAIL` (R136 step 3). -/
theorem absorbByte_of_room {s : State} (h : s.nb ≠ 7) (x : Byte) :
    absorbByte s x = { s with
      tail := s.tail ||| (x.setWidth 64 <<< (8 * s.nb.toNat)), nb := s.nb + 1, len := s.len + 1 } := by
  unfold absorbByte
  exact if_neg h

@[simp] theorem absorbBytes_nil (s : State) : absorbBytes s [] = s := rfl

@[simp] theorem absorbBytes_cons (s : State) (x : Byte) (bytes : List Byte) :
    absorbBytes s (x :: bytes) = absorbBytes (absorbByte s x) bytes := rfl

/-- Absorbing a message in two pieces absorbs it whole (R142 "any chunking"). -/
theorem absorbBytes_append (s : State) (xs ys : List Byte) :
    absorbBytes s (xs ++ ys) = absorbBytes (absorbBytes s xs) ys :=
  List.foldl_append

/-- `NB` counts the absorbed bytes modulo 8 (R134 (e), R136). -/
theorem absorbByte_nb (s : State) (x : Byte) : (absorbByte s x).nb = s.nb + 1 := by
  by_cases h : s.nb = 7
  · have h8 : (0 : BitVec 3) = 7 + 1 := by decide
    rw [absorbByte_of_full h, h]
    exact h8
  · rw [absorbByte_of_room h]

/-! ### Meanings -/

/-- Every command answers a next state, in every state: no data and no order of commands stops the machine (R210, R214). -/
theorem exec_answers_next (i : Instr) (s : State) : ∃ t, exec i s = .next t := by
  cases i <;> simp only [exec, execInit, execAbsb, execAbsw, execFinal, execEncode, execDecode, execGen7, execRst,
    acceptCommand, inMessage] <;> (repeat' split) <;> exact ⟨_, rfl⟩

/-- In the faulted state a command other than `RST` is ignored (R217). -/
theorem exec_of_err {i : Instr} {s : State} (h : s.err = true) (hi : i ≠ .rst) : exec i s = .next s := by
  cases i <;> first
    | exact absurd rfl hi
    | simp [exec, execInit, execAbsb, execAbsw, execFinal, execEncode, execDecode, execGen7, acceptCommand, h]

/-- Inversion of `exec`: everything a command can do (R97, R217). -/
theorem exec_cases {i : Instr} {s t : State} (h : exec i s = .next t) :
    (i = .rst ∧ t = resetBlock s) ∨ (i ≠ .rst ∧ s.err = true ∧ t = s) ∨
    (s.err = false ∧ (
      (i = .init ∧ t = startMessage s) ∨
      (∃ x, i = .absb x ∧ s.act = true ∧ t = absorbByte s x) ∨
      (∃ n, i = .absw n ∧ s.act = true ∧ t = absorbBytes s (mdataBytes s.mdata n)) ∨
      (i = .final ∧ s.act = true ∧ t = finalize s) ∨
      (((∃ x, i = .absb x) ∨ (∃ n, i = .absw n) ∨ i = .final) ∧ s.act = false ∧
        t = raiseFault .seq (commandInfo i) s) ∨
      (i = .encode ∧ t = deliver (hashFacade s) (transform s.idIn s.k0 s.k1 4)) ∨
      (i = .decode ∧ t = deliver (hashFacade s) (transform s.idIn s.k0 s.k1 7)) ∨
      (i = .gen7 ∧ t = deliver s (stamp s.idIn (s.time.extractLsb' 0 48) 7)))) := by
  by_cases hrst : i = .rst
  · subst hrst
    injection h with h
    exact .inl ⟨rfl, h.symm⟩
  cases hs : s.err with
  | true =>
    rw [exec_of_err hs hrst] at h
    injection h with h
    exact .inr (.inl ⟨hrst, rfl, h.symm⟩)
  | false =>
    refine .inr (.inr ⟨rfl, ?_⟩)
    cases i <;> simp only [exec, execInit, execAbsb, execAbsw, execFinal, execEncode, execDecode, execGen7, acceptCommand,
      inMessage, hs, Bool.false_eq_true, if_false] at h <;> first
      | exact absurd rfl hrst
      | (injection h with h; subst h; simp)
      | (cases ha : s.act <;> simp only [ha, Bool.false_eq_true, if_true, if_false] at h <;> injection h with h <;>
          subst h <;> simp)

end Sys2Proof.Machine
end

