-- ==== Sys2Proof/Laws/PerInstr.lean ====
section
/-! SUPPORT. Statements about every command as syntax, one lemma per constructor: the encoded word of a well-formed command
selects its own row of the opcode map (spec/30_encoding.md R93). -/

namespace Sys2Proof.Laws.EncodedWordSelectsRow

/-- The word of a well-formed command selects the row of its mnemonic in the opcode map (R93). -/
def Statement (i : Instr) : Prop :=
  i.WellFormed → ∃ r ∈ opTable, r.mnemonic = i.mnemonic ∧ r.Selects (encode i)

theorem init : Statement .init := fun _ =>
  ⟨⟨"INIT", 0x01, 0xFFFFFFFFFFFFFFFF⟩, by decide, rfl, by decide⟩

theorem absb (imm8 : Byte) : Statement (.absb imm8) := fun _ => by
  refine ⟨⟨"ABSB", 0x02, 0xFFFFFFFFFFFF00FF⟩, by decide, rfl, ?_⟩
  revert imm8
  decide

theorem absw (n : Nat) : Statement (.absw n) := fun h => by
  refine ⟨⟨"ABSW", 0x03, 0xFFFFFFFFFFFFF8FF⟩, by decide, rfl, ?_⟩
  obtain ⟨h1, h8⟩ := h
  interval_cases n <;> decide

theorem final : Statement .final := fun _ =>
  ⟨⟨"FINAL", 0x04, 0xFFFFFFFFFFFFFFFF⟩, by decide, rfl, by decide⟩

theorem encode : Statement .encode := fun _ =>
  ⟨⟨"ENCODE", 0x10, 0xFFFFFFFFFFFFFFFF⟩, by decide, rfl, by decide⟩

theorem decode : Statement .decode := fun _ =>
  ⟨⟨"DECODE", 0x11, 0xFFFFFFFFFFFFFFFF⟩, by decide, rfl, by decide⟩

theorem gen7 : Statement .gen7 := fun _ =>
  ⟨⟨"GEN7", 0x12, 0xFFFFFFFFFFFFFFFF⟩, by decide, rfl, by decide⟩

theorem rst : Statement .rst := fun _ =>
  ⟨⟨"RST", 0x7F, 0xFFFFFFFFFFFFFFFF⟩, by decide, rfl, by decide⟩

end Sys2Proof.Laws.EncodedWordSelectsRow
end

