-- ==== Sys2Proof/Laws/Port.lean ====
section
/-! SUPPORT. What a step does, once and for all: the cases of `step`, `serve` and the transactions (spec/20_memory.md R66, R67). -/

namespace Sys2Proof.Machine

/-- With nothing delivered the state does not change (R10). -/
theorem step_of_idle {s : State} (h : s.port = []) : step s = .next s := by
  simp [step, stepPort, h]

/-- A step serves the oldest event (R72). -/
theorem step_of_event {s : State} {e : PortEvent} {rest : List PortEvent} (h : s.port = e :: rest) :
    step s = serve e { s with port := rest } := by
  simp [step, stepPort, h]

/-- The cases of a step: the block rests, or it serves the oldest event. -/
theorem step_cases (s : State) :
    (s.port = [] ∧ step s = .next s) ∨
    ∃ e rest, s.port = e :: rest ∧ step s = serve e { s with port := rest } := by
  cases h : s.port with
  | nil => exact .inl ⟨rfl, step_of_idle h⟩
  | cons e rest => exact .inr ⟨e, rest, rfl, step_of_event h⟩

/-- A command word that decodes runs its command (R97 step 5). -/
theorem runCommand_of_instr {w : Word} {i : Instr} (h : decode w = .instr i) (s : State) : runCommand w s = exec i s := by
  simp [runCommand, h]

/-- An illegal word raises `ILLCMD` (R94). -/
theorem runCommand_of_illegal {w : Word} {why : IllegalWord} (h : decode w = .illegal why) (s : State) :
    runCommand w s = .next (raiseFault .illcmd (lowField w) s) := by
  simp [runCommand, h]

/-- A read transaction: a register's value and no state change, or 0 and `BADACC` (R66). -/
theorem readPort_cases (off : Offset) (s : State) :
    (∃ r, off = r.offset ∧ readPort off s = (s, readReg r s)) ∨
    (regAt off = none ∧ readPort off s = (raiseFault .badacc (accessInfo false off) s, 0)) := by
  cases h : regAt off with
  | none => exact .inr ⟨rfl, by simp [readPort, h]⟩
  | some r => exact .inl ⟨r, offset_of_regAt h, by simp [readPort, h]⟩

/-- A write when `ERR = 0` writes the register at its offset (R67). -/
theorem writePort_of_reg {s : State} (h : s.err = false) (r : Reg) (data : Word) :
    writePort r.offset data s = writeReg r data s := by
  simp [writePort, h]

/-- A write when `ERR = 0` to an offset with no register raises `BADACC` (R67, R215). -/
theorem writePort_of_bad {s : State} {off : Offset} (h : s.err = false) (hoff : regAt off = none) (data : Word) :
    writePort off data s = .next (raiseFault .badacc (accessInfo true off) s) := by
  simp [writePort, h, hoff]

/-- A write in the faulted state is ignored but for `RST`'s word (R217). -/
theorem writePort_of_err {s : State} (h : s.err = true) (off : Offset) (data : Word) :
    writePort off data s = if off = 0x18 ∧ data = 0x7F then exec .rst s else .next s := by
  simp [writePort, h]

/-- Every transaction and every reset answers a next state (93 Part 2). -/
theorem serve_answers_next (e : PortEvent) (s : State) : ∃ t, serve e s = .next t := by
  cases e with
  | read off => exact ⟨_, rfl⟩
  | reset => exact ⟨_, rfl⟩
  | write off data =>
    simp only [serve, writePort]
    split
    · split
      · exact exec_answers_next .rst s
      · exact ⟨_, rfl⟩
    · split
      · exact ⟨_, rfl⟩
      · rename_i r _
        cases r <;> simp only [writeReg] <;> first
          | exact ⟨_, rfl⟩
          | (simp only [runCommand]
             split
             · exact exec_answers_next _ s
             · exact ⟨_, rfl⟩)

/-- Inversion of `writeReg`: everything a write to a register can do when `ERR = 0` (R67). -/
theorem writeReg_cases {r : Reg} {d : Word} {s t : State} (h : writeReg r d s = .next t) :
    (r = .k0 ∧ t = { s with k0 := d }) ∨ (r = .k1 ∧ t = { s with k1 := d }) ∨ (r = .mdata ∧ t = { s with mdata := d }) ∨
    (r = .time ∧ t = { s with time := d }) ∨ (r = .idInHi ∧ t = { s with idIn := setIdHi s.idIn d }) ∨
    (r = .idInLo ∧ t = { s with idIn := setIdLo s.idIn d }) ∨
    ((r = .status ∨ r = .digest ∨ r = .idOutHi ∨ r = .idOutLo) ∧ t = s) ∨
    (r = .cmd ∧ ((∃ i, decode d = .instr i ∧ exec i s = .next t) ∨
      ((∃ why, decode d = .illegal why) ∧ t = raiseFault .illcmd (lowField d) s))) := by
  cases r <;> simp only [writeReg] at h <;> first
    | (injection h with h; subst h; simp)
    | (cases hd : decode d with
       | instr i =>
         rw [runCommand_of_instr hd] at h
         simp [h]
       | illegal why =>
         rw [runCommand_of_illegal hd] at h
         injection h with h
         simp [h])

/-- Inversion of `serve`: everything an event can do to the block (R66, R67, R240). -/
theorem serve_cases {e : PortEvent} {s t : State} (h : serve e s = .next t) :
    (∃ off, e = .read off ∧ t = answerRead (readPort off s)) ∨
    (e = .reset ∧ t = resetBlock s) ∨
    (∃ off d, e = .write off d ∧ s.err = true ∧ ¬(off = 0x18 ∧ d = 0x7F) ∧ t = s) ∨
    (e = .write 0x18 0x7F ∧ s.err = true ∧ t = resetBlock s) ∨
    (∃ off d, e = .write off d ∧ s.err = false ∧ regAt off = none ∧ t = raiseFault .badacc (accessInfo true off) s) ∨
    (∃ r d, e = .write r.offset d ∧ s.err = false ∧ writeReg r d s = .next t) := by
  cases e with
  | read off =>
    injection h with h
    exact .inl ⟨off, rfl, h.symm⟩
  | reset =>
    injection h with h
    exact .inr (.inl ⟨rfl, h.symm⟩)
  | write off d =>
    simp only [serve] at h
    cases hs : s.err with
    | true =>
      rw [writePort_of_err hs] at h
      split at h
      · rename_i hx
        obtain ⟨rfl, rfl⟩ := hx
        injection h with h
        exact .inr (.inr (.inr (.inl ⟨rfl, rfl, h.symm⟩)))
      · rename_i hx
        injection h with h
        exact .inr (.inr (.inl ⟨off, d, rfl, rfl, hx, h.symm⟩))
    | false =>
      cases hr : regAt off with
      | none =>
        rw [writePort_of_bad hs hr] at h
        injection h with h
        exact .inr (.inr (.inr (.inr (.inl ⟨off, d, rfl, rfl, hr, h.symm⟩))))
      | some r =>
        rw [offset_of_regAt hr] at h ⊢
        rw [writePort_of_reg hs] at h
        exact .inr (.inr (.inr (.inr (.inr ⟨r, d, rfl, rfl, h⟩))))

end Sys2Proof.Machine

namespace Sys2Proof.Safety

open Sys2Proof.Machine

/-- Serving one list of events and then another serves them as one list. -/
theorem serveAll_append {xs : List PortEvent} {s t : State} (h : serveAll xs s = .next t) (ys : List PortEvent) :
    serveAll (xs ++ ys) s = serveAll ys t := by
  induction xs generalizing s with
  | nil =>
    simp only [serveAll, Host.Outcome.next.injEq] at h
    subst h
    rfl
  | cons e rest ih =>
    simp only [serveAll, List.cons_append] at h ⊢
    split at h
    · rename_i u hu
      exact ih h
    · cases h
    · cases h

/-- A run of `m + n` steps is a run of `m` steps and then of `n`. -/
theorem runSteps_add {m : Nat} {s t : State} (h : runSteps m s = .next t) (n : Nat) :
    runSteps (m + n) s = runSteps n t := by
  induction m generalizing s with
  | zero =>
    simp only [runSteps, Host.Outcome.next.injEq] at h
    subst h
    rw [Nat.zero_add]
  | succ k ih =>
    rw [Nat.succ_add]
    simp only [runSteps] at h ⊢
    split at h
    · rename_i u hu
      exact ih h
    · cases h
    · cases h

end Sys2Proof.Safety
end

