-- ==== Sys2Proof/Tests/Slice0.lean ====
section
/-! SUPPORT. The model's own tests. Expected values come from spec/ (the vectors V.., traces T.. and programs P.. of
spec/95_test_vectors.md and spec/96_test_programs.md, and the examples inside the rules); the second part gives, for each
statement with hypotheses, a concrete state and operands that meet them together. -/

namespace Sys2Proof.Tests

open Sys2Proof.Machine Sys2Proof.Safety

/-- The outcome is a next state with property `p`. -/
def answers (o : Host.Outcome State Fault Refusal) (p : State → Bool) : Bool :=
  match o with
  | .next t => p t
  | .fault _ => false
  | .refused _ => false

/-- The test key of 95. -/
def testKey : State := { State.reset with k0 := 0x0706050403020100, k1 := 0x0f0e0d0c0b0a0908 }

/-- After `INIT` under the test key: the words of trace T3's first row. -/
def started : State :=
  { testKey with
    v := ⟨0x7469686173716475, 0x6b617f6d656e6665, 0x6b7f62616d677361, 0x7b6b696e727e6c7b⟩, act := true }

/-- The state of the vectors V46: `n0` pending bytes `t0`, length `l0`. -/
def pending (n0 : BitVec 3) (t0 : Word) (l0 : BitVec 8) : State :=
  { started with nb := n0, tail := t0, len := l0, mdata := 0x8877665544332211 }

/-- Key A of 95 and an identifier given as its two register words. -/
def keyA (hi lo : Word) : State :=
  { State.reset with
    k0 := 0x0123456789abcdef, k1 := 0xfedcba9876543210, idIn := setIdLo (setIdHi State.reset.idIn hi) lo }

/-- The faulted state after an illegal `0x0005` from reset (V50.13). -/
def faulted : State := { State.reset with err := true, errCode := 1, errInfo := 0x0005 }

/-- The port holds the given events. -/
def deliverTo (s : State) (es : List PortEvent) : State := { s with port := es }

/-! ### Well-formedness -/

theorem test_absw_zero_ill_formed : ¬(Instr.absw 0).WellFormed := by decide

theorem test_absw_nine_ill_formed : ¬(Instr.absw 9).WellFormed := by decide

theorem test_absw_bounds_well_formed : (Instr.absw 1).WellFormed ∧ (Instr.absw 8).WellFormed := by decide

/-! ### Decoding, words of R93 and vectors V50 -/

theorem test_decode_init : decode 0x0000000000000001 = .instr .init := by decide
theorem test_decode_absb : decode 0x000000000000ab02 = .instr (.absb 0xab) := by decide
theorem test_decode_absw : decode 0x0000000000000703 = .instr (.absw 8) := by decide
theorem test_decode_final : decode 0x0000000000000004 = .instr .final := by decide
theorem test_decode_encode : decode 0x0000000000000010 = .instr .encode := by decide
theorem test_decode_decode : decode 0x0000000000000011 = .instr .decode := by decide
theorem test_decode_gen7 : decode 0x0000000000000012 = .instr .gen7 := by decide
theorem test_decode_rst : decode 0x000000000000007f = .instr .rst := by decide

/-- V50.1, V50.3, V50.9, V50.10, V50.24, V50.26, V50.27. -/
theorem test_decode_illegal :
    decode 0x0 = .illegal .opcode ∧ decode 0x101 = .illegal .reservedArg ∧ decode 0x803 = .illegal .reservedCount ∧
    decode 0x8003 = .illegal .reservedCount ∧ decode 0x81 = .illegal .opcode ∧
    decode 0x10001 = .illegal .reservedHigh ∧ decode 0x8000000000000004 = .illegal .reservedHigh := by decide

theorem test_decode_table_word : decodeTableWord 64 0x303 = some (.absw 4) ∧ decodeTableWord 64 0x5 = none := by decide

theorem test_opcode_map_counts : opTable.length = Config.numCommands ∧
    ([Reg.k0, .k1, .mdata, .cmd, .status, .digest, .idInHi, .idInLo, .idOutHi, .idOutLo, .time].map Reg.offset).length =
      Config.numRegisters := by decide

/-! ### SipHash -/

/-- V22: a single bit in `V1`. -/
theorem test_sipRound_v1 :
    sipRound ⟨0, 1, 0, 0⟩ = ⟨0x0000000100000000, 0x0000000040022001, 0x0000200100000000, 0x0000000100000000⟩ := by decide

/-- V24: a single bit in `V3`. -/
theorem test_sipRound_v3 :
    sipRound ⟨0, 0, 0, 1⟩ = ⟨0x0000000000010001, 0x0000000000000001, 0x0000000100000000, 0x0000002000210001⟩ := by decide

/-- V28c: the length-byte position. -/
theorem test_compress : compress 0x0100000000000000 ⟨0, 0, 0, 0⟩ =
    ⟨0x0000210002002000, 0x0300000023402620, 0x2100222003000000, 0x0100210402000004⟩ := by decide

/-- V2: the one-byte message, DOC0's vector. -/
theorem test_sipHash24_one_byte : sipHash24 [0x00] 0x0706050403020100 0x0f0e0d0c0b0a0908 = 0x74f839c593dc67fd := by decide

/-- V29d: one full block, all ones. -/
theorem test_sipHash24_full_block : sipHash24 (List.replicate 8 0xff) 0xffffffffffffffff 0xffffffffffffffff =
    0xf13e77491777f9d0 := by decide

/-! ### One step each -/

/-- R138's example. -/
theorem test_init : answers (step (testKey.withFetchWord 64 0x01))
    (fun t => t.v = started.v && statusWord t = 0x2 && t.port = []) = true := by decide

/-- R139's example. -/
theorem test_absb : answers (step (started.withFetchWord 64 0x6102))
    (fun t => t.tail = 0x61 && statusWord t = 0x10102 && t.v = started.v) = true := by decide

/-- V46g: the byte completes a block and `LEN` wraps. -/
theorem test_absb_block : answers (exec (.absb 0xee) (pending 7 0x00a6a5a4a3a2a1a0 255))
    (fun t => t.tail = 0 && t.nb = 0 && t.len = 0 && t.v = compress 0xeea6a5a4a3a2a1a0 started.v) = true := by decide

/-- V46f: the bytes straddle a block boundary. -/
theorem test_absw_straddle : answers (exec (.absw 6) (pending 3 0x0000000000a2a1a0 3))
    (fun t => t.tail = 0x66 && t.nb = 1 && t.len = 9 && t.v = compress 0x5544332211a2a1a0 started.v) = true := by decide

/-- V46i: `LEN` wraps inside an `ABSW`. -/
theorem test_absw_wrap : answers (exec (.absw 8) (pending 5 0x000000a4a3a2a1a0 254))
    (fun t => t.tail = 0x8877665544 && t.nb = 5 && t.len = 6 && t.v = compress 0x332211a4a3a2a1a0 started.v) = true := by
  decide

/-- V1 and trace T1: `FINAL` right after `INIT`. -/
theorem test_final : answers (step (started.withFetchWord 64 0x04))
    (fun t => t.digest = 0x726fdb47dd0e0e31 && statusWord t = 0x4 && t.v.v0 = 0xe738d0dfdc9b2453) = true := by decide

/-- P9 step 8: a second `FINAL` faults with `SEQ` and keeps the digest. -/
theorem test_final_seq : answers (exec .final { testKey with digest := 0x726fdb47dd0e0e31, dv := true })
    (fun t => statusWord t = 0x0000000402000005 && t.digest = 0x726fdb47dd0e0e31) = true := by decide

/-- V31. -/
theorem test_encode : answers (step ((keyA 0x018f2d9f9a2a7def 0x8c3f7b1a2c4d5e6f).withFetchWord 64 0x10))
    (fun t => idHi t.idOut = 0x4ec7c978ebd74def && idLo t.idOut = 0x8c3f7b1a2c4d5e6f && t.digest = 0x18814f48e4e771fd &&
      statusWord t = 0x9000c && t.v.v3 = 0xbfd68d6393c94769) = true := by decide

/-- V30d: decode of the scenario's facade. -/
theorem test_decode : answers (step ((keyA 0x3895a391f2534000 0x8000000000000000).withFetchWord 64 0x11))
    (fun t => idHi t.idOut = 0x0000000000007000 && idLo t.idOut = 0x8000000000000000 && t.digest = 0x4e963895a391f253) =
    true := by decide

/-- V41: `TIME[63:48]` dropped, metadata forced. -/
theorem test_gen7 : answers (exec .gen7 { keyA 0xffffffffffffffff 0xffffffffffffffff with time := 0xabcd123456789abc })
    (fun t => idHi t.idOut = 0x123456789abc7fff && idLo t.idOut = 0xbfffffffffffffff && statusWord t = 0x8) = true := by
  decide

/-- R200's example: `RST` in the faulted state clears everything, the key too. -/
theorem test_rst : answers (step ({ testKey with err := true, errCode := 2, errInfo := 4 }.withFetchWord 64 0x7f))
    (fun t => t = State.reset) = true := by decide

/-! ### The port -/

/-- V60, V62: bad writes. -/
theorem test_bad_write : answers (step (deliverTo .reset [.write 0x58 0x1234])) (fun t => statusWord t = 0x0000015803000001) = true
    ∧ answers (step (deliverTo .reset [.write 0x04 1])) (fun t => statusWord t = 0x0000010403000001 && t.k0 = 0) = true := by
  decide

/-- V63, V64: bad reads answer 0 and fault. -/
theorem test_bad_read : answers (step (deliverTo .reset [.read 0xf8]))
      (fun t => t.lastRead = some 0 && statusWord t = 0x000000f803000001) = true
    ∧ answers (step (deliverTo .reset [.read 0x21])) (fun t => t.lastRead = some 0 && statusWord t = 0x2103000001) = true := by
  decide

/-- V67, V70: an identifier half is written and read big-endian. -/
theorem test_write_id : answers (step (deliverTo .reset [.write 0x30 0x018f2d9f9a2a7def]))
    (fun t => t.idIn[0] = 0x01 && t.idIn[7] = 0xef && t.idIn[8] = 0) = true
    ∧ answers (step (deliverTo (keyA 0x1122334455667788 0x99aabbccddeeff00) [.read 0x38]))
      (fun t => t.lastRead = some 0x99aabbccddeeff00) = true := by decide

/-- V69: in the faulted state `WR MDATA` and `0x017f` are ignored. -/
theorem test_faulted_write : answers (step (deliverTo faulted [.write 0x10 0x55])) (fun t => t = faulted) = true
    ∧ answers (step (deliverTo faulted [.write 0x18 0x17f])) (fun t => t = faulted) = true := by decide

/-- V66: write-only registers read as 0. -/
theorem test_key_reads_zero : answers (step (deliverTo testKey [.read 0x00])) (fun t => t.lastRead = some 0 && t.err = false) =
    true := by decide

/-- P2's transactions are `HASH` of its fifteen bytes, but for the unused top byte of the last word. -/
theorem test_hash_expansion : hashEvents ((List.range 15).map (BitVec.ofNat 8)) =
    [.write 0x18 0x01, .write 0x10 0x0706050403020100, .write 0x18 0x703, .write 0x10 0x000e0d0c0b0a0908, .write 0x18 0x603,
      .write 0x18 0x04] := by decide

/-! ### Witnesses of the statements' hypotheses -/

theorem witness_DecodeOfEncodeIsTheCommand : (Instr.absw 8).WellFormed ∧ (Instr.absw 1).WellFormed := by decide

theorem witness_EncodeOfDecodeIsTheWord : decode 0x0703 = .instr (.absw 8) := by decide

theorem witness_DecoderSelectsTheOpcodeMapRow : ∃ r ∈ opTable, r.Selects 0x0703 := by decide

theorem witness_IdlePortLeavesTheStateAlone : State.reset.port = [] := rfl

theorem witness_StepRunsTheDecodedCommand : (deliverTo testKey [.write 0x18 0x01]).port = .write 0x18 0x01 :: [] ∧
    decode 0x01 = .instr .init := by decide

theorem witness_StepServesTheOldestEvent : (deliverTo testKey [.read 0x20, .reset]).port = .read 0x20 :: [.reset] := rfl

theorem witness_RunServesTheEventsInOrder :
    (deliverTo testKey [.write 0x18 0x01, .read 0x20, .reset]).port = [.write 0x18 0x01, .read 0x20] ++ [.reset] := rfl

theorem witness_ReadTransactionAnswersTheRegister : testKey.err = false ∧ faulted.err = true ∧ (0x50 : Offset) < 0x51 ∧ (0x50 : Offset) < 0x58 ∧
    (0x07 : Offset).extractLsb' 0 3 ≠ 0 ∧
    ((0x00 : Offset), (0 : Word)) ∈ [((0x00 : Offset), (0 : Word)), (0x08, 0)] ∧
    ((0x50 : Offset), testKey.time) ∈ [((0x48 : Offset), idLo testKey.idOut), (0x50, testKey.time)] := by decide

theorem witness_WriteTransactionChangesOnlyTheElementNamed : faulted.err = true ∧ testKey.err = false ∧
    ¬((0x18 : Offset) = 0x18 ∧ (0x7E : Word) = 0x7F) ∧ ¬((0x10 : Offset) = 0x18 ∧ (0x7F : Word) = 0x7F) ∧
    (0x51 : Offset).extractLsb' 0 3 ≠ 0 ∧ (0x50 : Offset) < 0x58 ∧
    (∀ off ∈ [(0x00 : Offset), 0x08, 0x10, 0x18, 0x20, 0x28, 0x30, 0x38, 0x40, 0x48, 0x50], badOffset off = false) := by decide

theorem witness_InitStartsAMessage : testKey.err = false ∧ (0x01 : Word).extractLsb' 0 8 = 0x01 ∧
    (0x101 : Word).extractLsb' 0 8 = 0x01 ∧ (0x101 : Word).extractLsb' 8 56 ≠ 0 := by decide

theorem witness_AbsbAbsorbsItsByte : started.err = false ∧ started.act = true ∧ started.nb ≠ 7 ∧ (pending 7 0xa0 7).nb = 7 ∧
    (pending 7 0xa0 7).err = false ∧ (pending 7 0xa0 7).act = true := by decide

theorem witness_AbsbCompletesInAMessage : started.err = false ∧ started.act = true ∧ started.nb ≠ 7 ∧
    (pending 7 0xa0 7).err = false ∧ (pending 7 0xa0 7).act = true ∧ (pending 7 0xa0 7).nb = 7 ∧
    testKey.err = false ∧ testKey.act = false ∧ testKey.ov = false ∧ testKey.errCode = 0 ∧ testKey.errInfo = 0 ∧
    (0xFF02 : Word).extractLsb' 0 8 = 0x02 ∧ (0xFF02 : Word).extractLsb' 16 48 = 0 ∧
    (0x10002 : Word).extractLsb' 0 8 = 0x02 ∧ (0x10002 : Word).extractLsb' 16 48 ≠ 0 := by decide

theorem witness_EightAbsbCompressOneBlock : ([0, 1, 2, 3, 4, 5, 6, 7] : List Byte).length = 8 ∧ started.err = false ∧
    started.act = true ∧ started.nb = 0 ∧ started.tail = 0 := by decide

theorem witness_AbswAbsorbsTheLowBytesOfMdataInOrder : 1 ≤ 8 ∧ 8 ≤ 8 ∧ started.err = false ∧ started.act = true := by decide

theorem witness_AbswCompressesAtMostOneBlock : (pending 3 0xa0 3).err = false ∧ (pending 3 0xa0 3).act = true ∧
    (pending 3 0xa0 3).nb.toNat + 4 < 8 ∧ 8 ≤ (pending 3 0xa0 3).nb.toNat + 5 := by decide

theorem witness_FinalProducesTheDigest : started.err = false ∧ started.act = true := by decide

theorem witness_StreamingEqualsSipHash24 : (∀ c ∈ [Chunk.byte 1, .word 5 1, .word 5 8], c.WellFormed) ∧ testKey.err = false :=
  ⟨by simp [Chunk.WellFormed], rfl⟩

theorem witness_HashPseudoOperationComputesSipHash24 : testKey.err = false := rfl

theorem witness_KeyIsSampledAtInitOnly : Instr.final ≠ .init ∧ Instr.final ≠ .encode ∧ Instr.final ≠ .decode ∧
    Instr.final ≠ .rst ∧ (∃ t, exec .final started = .next t) ∧ testKey.err = false ∧
    ∃ t, exec .init { testKey with k0 := 1, k1 := 2 } = .next t := ⟨by decide, by decide, by decide, by decide, ⟨_, rfl⟩, rfl, ⟨_, rfl⟩⟩

theorem witness_StreamingCommandsFrame : (∃ t, exec (.absw 8) started = .next t) ∧ (∃ t, exec .init started = .next t) ∧
    (∃ t, exec (.absb 7) started = .next t) ∧ (∃ t, exec .final started = .next t) ∧ started.act = true :=
  ⟨⟨_, rfl⟩, ⟨_, rfl⟩, ⟨_, rfl⟩, ⟨_, rfl⟩, rfl⟩

/-- Two identifiers that differ in timestamp, version, variant and byte 15 only. -/
theorem witness_FacadeMessageIgnoresTimestampAndMetadata :
    let a := setIdLo (setIdHi State.reset.idIn 0x018f2d9f9a2a7def) 0x8c3f7b1a2c4d5e6f
    let b := setIdLo (setIdHi State.reset.idIn 0xffffffffffff1def) 0x0c3f7b1a2c4d5e00
    a ≠ b ∧ a[7] = b[7] ∧ a[9] = b[9] ∧ a[10] = b[10] ∧ a[11] = b[11] ∧ a[12] = b[12] ∧ a[13] = b[13] ∧ a[14] = b[14] ∧
      a[6].extractLsb' 0 4 = b[6].extractLsb' 0 4 ∧ a[8].extractLsb' 0 6 = b[8].extractLsb' 0 6 := by decide

theorem witness_EncodeMakesTheFacade : testKey.err = false ∧ (0x10 : Word).extractLsb' 0 8 = 0x10 ∧
    (0x8000000000000010 : Word).extractLsb' 0 8 = 0x10 ∧ (0x8000000000000010 : Word).extractLsb' 8 56 ≠ 0 := by decide

theorem witness_DecodeRecoversTheIdentifier : testKey.err = false ∧ (0x11 : Word).extractLsb' 0 8 = 0x11 ∧
    (0x111 : Word).extractLsb' 0 8 = 0x11 ∧ (0x111 : Word).extractLsb' 8 56 ≠ 0 := by decide

theorem witness_EncodeAndDecodeLeaveTheFacadeDigest : testKey.err = false ∧ (∃ t, exec .encode testKey = .next t) ∧
    ∃ t, exec .decode testKey = .next t := ⟨rfl, ⟨_, rfl⟩, ⟨_, rfl⟩⟩

theorem witness_EncodeAndDecodeDifferOnlyInTheVersion : testKey.err = false ∧ (∃ a, exec .encode testKey = .next a) ∧
    ∃ b, exec .decode testKey = .next b := ⟨rfl, ⟨_, rfl⟩, ⟨_, rfl⟩⟩

theorem witness_Gen7StampsTimeAndSuppliedBytes : testKey.err = false ∧ (0x12 : Word).extractLsb' 0 8 = 0x12 := by decide

theorem witness_Gen7WrapsTheTimeModulo48Bits : testKey.err = false ∧ (∃ t, exec .gen7 testKey = .next t) ∧
    (0x0001000000000000 : Word).toNat % 2 ^ 48 = testKey.time.toNat % 2 ^ 48 := ⟨rfl, ⟨_, rfl⟩, by decide⟩

theorem witness_EncodeMovoiDecodeReturnsTheIdentifier :
    let s := keyA 0x0000000000007000 0x8000000000000000
    s.err = false ∧ version s.idIn = 7 ∧ variant s.idIn = 0b10 := by decide

theorem witness_Gen7Frame : ∃ t, exec .gen7 started = .next t := ⟨_, rfl⟩

theorem witness_RstResetsEveryStateElement : (0x7F : Word).extractLsb' 0 8 = 0x7F ∧
    (0x17F : Word).extractLsb' 0 8 = 0x7F ∧ (0x17F : Word).extractLsb' 8 56 ≠ 0 ∧ testKey.err = false ∧ faulted.err = true ∧
    (0x17F : Word) ≠ 0x7F := by decide

theorem witness_ResetLeavesEveryElementZero : (PortEvent.reset = .reset ∨ PortEvent.reset = .write 0x18 0x7F) ∧
    (PortEvent.write 0x18 0x7F = .reset ∨ PortEvent.write 0x18 0x7F = .write 0x18 0x7F) := by decide

theorem witness_SequenceFaultOnlyWithoutAMessage : decode 0x0703 = .instr (.absw 8) ∧ decode 0x04 = .instr .final ∧
    decode 0xff02 = .instr (.absb 0xff) ∧ testKey.err = false ∧ testKey.act = false ∧ ∃ t, exec .gen7 testKey = .next t :=
  ⟨by decide, by decide, by decide, rfl, rfl, ⟨_, rfl⟩⟩

/-- One word for each of the four conditions (V50.26, V50.1, V50.3, V50.9). -/
theorem witness_IllegalWordsFaultAndDoNothingElse : testKey.err = false ∧
    (0x10001 : Word).extractLsb' 16 48 ≠ 0 ∧
    (0x0 : Word).extractLsb' 0 8 ∉ [(0x01 : BitVec 8), 0x02, 0x03, 0x04, 0x10, 0x11, 0x12, 0x7F] ∧
    (0x101 : Word).extractLsb' 0 8 ∈ [(0x01 : BitVec 8), 0x04, 0x10, 0x11, 0x12, 0x7F] ∧ (0x101 : Word).extractLsb' 8 8 ≠ 0 ∧
    (0x803 : Word).extractLsb' 0 8 = 0x03 ∧ (0x803 : Word).extractLsb' 11 5 ≠ 0 ∧ decode 0x0703 = .instr (.absw 8) := by decide

theorem witness_FaultEntryWritesTheRecordOnly : testKey.err = false ∧ faulted.err = true := by decide

theorem witness_FaultedStateLeavesOnlyByReset : faulted.err = true ∧ ¬Exits (.read 0x20) ∧ ¬Exits (.write 0x18 0x17F) ∧
    Exits .reset ∧ Exits (.write 0x18 0x7F) := by
  simp [Exits, faulted]

/-- A state that meets every invariant: a message in progress with nothing absorbed. -/
theorem witness_EveryStepKeepsTheInvariants : Inv started ∧ ∃ t, step (started.withFetchWord 64 0x6102) = .next t :=
  ⟨⟨by decide, by decide, by decide, by decide, by decide, by decide, by decide⟩, ⟨_, rfl⟩⟩

theorem witness_EveryStepKeepsTheMessageInvariant : MessageInv started ∧ ∃ t, step started = .next t :=
  ⟨⟨by decide, by decide⟩, ⟨_, rfl⟩⟩

/-- The scenario's facade as a delivered result. -/
theorem witness_EveryStepKeepsResultMetadata :
    ResultInv { started with idOut := setIdLo (setIdHi State.reset.idIn 0x3895a391f2534000) 0x8000000000000000, ov := true } ∧
    ∃ t, step started = .next t :=
  ⟨fun _ => by decide, ⟨_, rfl⟩⟩

/-- A recorded `SEQ` of a `FINAL` and a recorded bad read of 0x58. -/
theorem witness_EveryStepKeepsTheFaultRecord :
    FaultRecordInv { testKey with err := true, errCode := 2, errInfo := 0x0004 } ∧
    FaultRecordInv { testKey with err := true, errCode := 3, errInfo := 0x0058 } ∧ ∃ t, step testKey = .next t :=
  ⟨⟨by decide, fun _ => ⟨.final, by decide, .inr (.inr rfl)⟩⟩, ⟨by decide, fun h => absurd h (by decide)⟩, ⟨_, rfl⟩⟩

theorem witness_DatapathStaysZeroUntilAMessage : DatapathZero testKey ∧
    (∃ t, step (deliverTo testKey [.write 0x18 0x12]) = .next t) ∧ decode 0x12 = .instr .gen7 :=
  ⟨⟨rfl, rfl, rfl, rfl, rfl⟩, ⟨_, rfl⟩, by decide⟩

theorem witness_OnlyMessageCommandsChangeAct :
    answers (step (deliverTo testKey [.write 0x18 0x01])) (fun t => t.act) = true ∧ testKey.act = false ∧
    answers (step (deliverTo started [.write 0x18 0x04])) (fun t => !t.act) = true ∧ started.act = true := by decide

theorem witness_ResultIsKeptUntilReplacedOrReset : ¬Exits (.write 0x18 0x12) ∧
    answers (step (deliverTo { started with ov := true } [.write 0x18 0x12])) (fun t => t.idOut ≠ started.idOut) = true :=
  ⟨by simp [Exits], by decide⟩

theorem witness_OperandRegistersAreWrittenOnlyByTheHost : ¬Exits (.write 0x00 9) ∧
    answers (step (deliverTo testKey [.write 0x00 9])) (fun t => t.k0 ≠ testKey.k0) = true ∧
    answers (step (deliverTo testKey [.write 0x08 9])) (fun t => t.k1 ≠ testKey.k1) = true ∧
    answers (step (deliverTo testKey [.write 0x10 9])) (fun t => t.mdata ≠ testKey.mdata) = true ∧
    answers (step (deliverTo testKey [.write 0x30 9])) (fun t => t.idIn ≠ testKey.idIn) = true ∧
    answers (step (deliverTo testKey [.write 0x38 9])) (fun t => t.idIn ≠ testKey.idIn) = true ∧
    answers (step (deliverTo testKey [.write 0x50 9])) (fun t => t.time ≠ testKey.time) = true :=
  ⟨by simp [Exits], by decide⟩

/-- Two states that differ in the key and the SipHash words only. -/
theorem witness_HiddenStateShowsOnlyInDigestAndIdOut :
    SameVisible started { started with k0 := 0, k1 := 0, v := ⟨0, 0, 0, 0⟩, tail := 3 } ∧ started.lastRead = none ∧
    (∃ t, step (deliverTo started [.write 0x18 0x04]) = .next t) ∧
    (∃ t, step (deliverTo { started with k0 := 0, k1 := 0, v := ⟨0, 0, 0, 0⟩, tail := 3 } [.write 0x18 0x04]) = .next t) :=
  ⟨⟨rfl, rfl, rfl, rfl, rfl, rfl, rfl, rfl, rfl, rfl, rfl, rfl, rfl⟩, rfl, ⟨_, rfl⟩, ⟨_, rfl⟩⟩

end Sys2Proof.Tests
end

/-! The statements of spec/00_scope.md: a step serves the oldest event of the port, and a run serves them in their order. The run
rests on one fact about the model's own field `port` (log 1): no event reads it or writes it, so serving an event commutes
with replacing the events still to come. -/

namespace Sys2Proof.Machine

/-- The same block with other events still to come (log 1). -/
def withPort (p : List PortEvent) (s : State) : State := { s with port := p }

/-- Change the next state of an outcome. -/
def mapNext (f : State → State) (o : Host.Outcome State Fault Refusal) : Host.Outcome State Fault Refusal :=
  match o with
  | .next t => .next (f t)
  | .fault r => .fault r
  | .refused r => .refused r

@[simp] theorem mapNext_next (f : State → State) (t : State) : mapNext f (.next t) = .next (f t) := rfl

@[simp] theorem withPort_err (p : List PortEvent) (s : State) : (withPort p s).err = s.err := rfl

@[simp] theorem withPort_act (p : List PortEvent) (s : State) : (withPort p s).act = s.act := rfl

@[simp] theorem withPort_port (p : List PortEvent) (s : State) : (withPort p s).port = p := rfl

@[simp] theorem withPort_withPort (p q : List PortEvent) (s : State) : withPort p (withPort q s) = withPort p s := rfl

/-! ### The shared operations commute with a change of `port` -/

theorem raiseFault_withPort (c : FaultCause) (info : BitVec 16) (p : List PortEvent) (s : State) :
    raiseFault c info (withPort p s) = withPort p (raiseFault c info s) := by
  cases h : s.err with
  | true => rw [raiseFault_of_err c info h, raiseFault_of_err c info (s := withPort p s) h]
  | false => rw [raiseFault_of_ok c info h, raiseFault_of_ok c info (s := withPort p s) h]; rfl

theorem absorbByte_withPort (x : Byte) (p : List PortEvent) (s : State) :
    absorbByte (withPort p s) x = withPort p (absorbByte s x) := by
  by_cases h : s.nb = 7
  · rw [absorbByte_of_full h, absorbByte_of_full (s := withPort p s) h]; rfl
  · rw [absorbByte_of_room h, absorbByte_of_room (s := withPort p s) h]; rfl

theorem absorbBytes_withPort (bytes : List Byte) (p : List PortEvent) (s : State) :
    absorbBytes (withPort p s) bytes = withPort p (absorbBytes s bytes) := by
  induction bytes generalizing s with
  | nil => rfl
  | cons x rest ih => rw [absorbBytes_cons, absorbBytes_cons, absorbByte_withPort, ih]

theorem startMessage_withPort (p : List PortEvent) (s : State) :
    startMessage (withPort p s) = withPort p (startMessage s) := rfl

theorem finalize_withPort (p : List PortEvent) (s : State) : finalize (withPort p s) = withPort p (finalize s) := rfl

theorem deliver_withPort (out : Ident) (p : List PortEvent) (s : State) :
    deliver (withPort p s) out = withPort p (deliver s out) := rfl

theorem hashFacade_withPort (p : List PortEvent) (s : State) :
    hashFacade (withPort p s) = withPort p (hashFacade s) := by
  rw [hashFacade, startMessage_withPort, absorbBytes_withPort, finalize_withPort]
  rfl

/-- What `ENCODE` and `DECODE` write. -/
theorem deliver_hashFacade_withPort (out : Ident) (p : List PortEvent) (s : State) :
    deliver (hashFacade (withPort p s)) out = withPort p (deliver (hashFacade s) out) := by
  rw [hashFacade_withPort, deliver_withPort]

theorem acceptCommand_withPort {p : List PortEvent} {s : State} {go go' : Host.Outcome State Fault Refusal}
    (h : go' = mapNext (withPort p) go) : acceptCommand (withPort p s) go' = mapNext (withPort p) (acceptCommand s go) := by
  cases hs : s.err with
  | true => rw [acceptCommand_of_err hs, acceptCommand_of_err (s := withPort p s) hs, mapNext_next]
  | false => rw [acceptCommand_of_ok hs, acceptCommand_of_ok (s := withPort p s) hs, h]

theorem inMessage_withPort {i : Instr} {p : List PortEvent} {s : State} {go go' : Host.Outcome State Fault Refusal}
    (h : go' = mapNext (withPort p) go) : inMessage i (withPort p s) go' = mapNext (withPort p) (inMessage i s go) := by
  cases hs : s.act with
  | true => rw [inMessage_of_act i hs, inMessage_of_act i (s := withPort p s) hs, h]
  | false =>
    rw [inMessage_of_idle i hs, inMessage_of_idle i (s := withPort p s) hs, mapNext_next, raiseFault_withPort]

/-! ### Commands, transactions and events commute with a change of `port` -/

/-- No command reads or writes `port`. -/
theorem exec_withPort (i : Instr) (p : List PortEvent) (s : State) :
    exec i (withPort p s) = mapNext (withPort p) (exec i s) := by
  cases i with
  | init => exact acceptCommand_withPort rfl
  | absb x => exact acceptCommand_withPort (inMessage_withPort (congrArg _ (absorbByte_withPort x p s)))
  | absw n => exact acceptCommand_withPort (inMessage_withPort (congrArg _ (absorbBytes_withPort _ p s)))
  | final => exact acceptCommand_withPort (inMessage_withPort rfl)
  | encode => exact acceptCommand_withPort (congrArg _ (deliver_hashFacade_withPort _ p s))
  | decode => exact acceptCommand_withPort (congrArg _ (deliver_hashFacade_withPort _ p s))
  | gen7 => exact acceptCommand_withPort rfl
  | rst => rfl

theorem runCommand_withPort (w : Word) (p : List PortEvent) (s : State) :
    runCommand w (withPort p s) = mapNext (withPort p) (runCommand w s) := by
  cases h : decode w with
  | instr i => rw [runCommand_of_instr h, runCommand_of_instr h, exec_withPort]
  | illegal why => rw [runCommand_of_illegal h, runCommand_of_illegal h, mapNext_next, raiseFault_withPort]

theorem writeReg_withPort (r : Reg) (d : Word) (p : List PortEvent) (s : State) :
    writeReg r d (withPort p s) = mapNext (withPort p) (writeReg r d s) := by
  cases r with
  | cmd => exact runCommand_withPort d p s
  | _ => rfl

theorem readReg_withPort (r : Reg) (p : List PortEvent) (s : State) : readReg r (withPort p s) = readReg r s := by
  cases r <;> rfl

theorem answerRead_readPort_withPort (off : Offset) (p : List PortEvent) (s : State) :
    answerRead (readPort off (withPort p s)) = withPort p (answerRead (readPort off s)) := by
  cases h : regAt off with
  | none => simp only [readPort, h, raiseFault_withPort]; rfl
  | some r => simp only [readPort, h, readReg_withPort]; rfl

theorem writePort_withPort (off : Offset) (d : Word) (p : List PortEvent) (s : State) :
    writePort off d (withPort p s) = mapNext (withPort p) (writePort off d s) := by
  cases hs : s.err with
  | true =>
    rw [writePort_of_err hs, writePort_of_err (s := withPort p s) hs, exec_withPort, apply_ite (mapNext (withPort p)),
      mapNext_next]
  | false =>
    cases hr : regAt off with
    | none =>
      rw [writePort_of_bad hs hr, writePort_of_bad (s := withPort p s) hs hr, mapNext_next, raiseFault_withPort]
    | some r =>
      rw [offset_of_regAt hr, writePort_of_reg hs, writePort_of_reg (s := withPort p s) hs, writeReg_withPort]

/-- No event reads or writes `port`: what it does to the block is the same whatever stands behind it (log 1, log 7). -/
theorem serve_withPort (e : PortEvent) (p : List PortEvent) (s : State) :
    serve e (withPort p s) = mapNext (withPort p) (serve e s) := by
  cases e with
  | read off => exact congrArg _ (answerRead_readPort_withPort off p s)
  | write off d => exact writePort_withPort off d p s
  | reset => rfl

/-- An event leaves the events still to come as they are. -/
theorem serve_port {e : PortEvent} {s t : State} (h : serve e s = .next t) : t.port = s.port := by
  have hcomm : serve e s = mapNext (withPort s.port) (serve e s) := serve_withPort e s.port s
  rw [h, mapNext_next, Host.Outcome.next.injEq] at hcomm
  exact (congrArg State.port hcomm).trans (withPort_port s.port t)

end Sys2Proof.Machine

namespace Sys2Proof.Safety

open Sys2Proof.Machine

/-- The run lemma: each step takes one event off the port and serves it, and serving it commutes with taking off the others. -/
theorem runSteps_eq_serveAll (es rest : List PortEvent) (s : State) (h : s.port = es ++ rest) :
    runSteps es.length s = serveAll es (withPort rest s) := by
  induction es generalizing s with
  | nil =>
    obtain rfl : s.port = rest := h
    rfl
  | cons e es ih =>
    obtain ⟨t, ht⟩ := serve_answers_next e (withPort (es ++ rest) s)
    have hstep : step s = .next t := (step_of_event h).trans ht
    have hserve : serve e (withPort rest s) = .next (withPort rest t) := by
      rw [← withPort_withPort rest (es ++ rest), serve_withPort, ht, mapNext_next]
    simp only [List.length_cons, runSteps, serveAll, hstep, hserve]
    exact ih t (serve_port ht)

/-- Settles O6: a step of an idle port. -/
theorem idlePortLeavesTheStateAlone : Obligations.IdlePortLeavesTheStateAlone :=
  fun _ => step_of_idle

/-- Settles O7: a step of a port with an event at its head. -/
theorem stepServesTheOldestEvent : Obligations.StepServesTheOldestEvent :=
  fun _ _ _ => step_of_event

/-- Settles O9, by induction on the events: serving one commutes with a change of `port` (log 1), a reset included (log 7). -/
theorem runServesTheEventsInOrder : Obligations.RunServesTheEventsInOrder :=
  runSteps_eq_serveAll

end Sys2Proof.Safety

/-! The statements of spec/10_state.md: what one event can change. `Served` lists it once for every event of the port; the
invariants of R42 and the rules of R21 to R29 follow from it. -/

namespace Sys2Proof.Machine

open Sys2Proof.Safety

/-! ### Everything an event can do to the block -/

/-- A host's write to an operand register, and the state it leaves (R67). -/
inductive HostWrite (s : State) : PortEvent → State → Prop where
  | k0 (d : Word) : HostWrite s (.write 0x00 d) { s with k0 := d }
  | k1 (d : Word) : HostWrite s (.write 0x08 d) { s with k1 := d }
  | mdata (d : Word) : HostWrite s (.write 0x10 d) { s with mdata := d }
  | idInHi (d : Word) : HostWrite s (.write 0x30 d) { s with idIn := setIdHi s.idIn d }
  | idInLo (d : Word) : HostWrite s (.write 0x38 d) { s with idIn := setIdLo s.idIn d }
  | time (d : Word) : HostWrite s (.write 0x50 d) { s with time := d }

/-- A transaction that raises a fault, with the fault's cause and information word (R212, R213, R215). -/
inductive Raises (s : State) : PortEvent → FaultCause → BitVec 16 → Prop where
  | badRead {off : Offset} (hoff : regAt off = none) : Raises s (.read off) .badacc (accessInfo false off)
  | badWrite {off : Offset} (d : Word) (hoff : regAt off = none) : Raises s (.write off d) .badacc (accessInfo true off)
  | illcmd {w : Word} {why : IllegalWord} (hw : decode w = .illegal why) : Raises s (.write 0x18 w) .illcmd (lowField w)
  | seq {w : Word} {i : Instr} (hw : decode w = .instr i) (hi : (∃ x, i = .absb x) ∨ (∃ n, i = .absw n) ∨ i = .final)
      (hact : s.act = false) : Raises s (.write 0x18 w) .seq (commandInfo i)

/-- Everything an event can do to the block (R66, R67, R97, R217, R240). -/
inductive Served (s : State) : PortEvent → State → Prop where
  | read (r : Reg) : Served s (.read r.offset) (answerRead (s, readReg r s))
  | faultRead {off : Offset} {c : FaultCause} {info : BitVec 16} (h : Raises s (.read off) c info) :
      Served s (.read off) (answerRead (raiseFault c info s, 0))
  | ignored {off : Offset} (d : Word)
      (h : s.err = true ∨ ∃ r ∈ [Reg.status, .digest, .idOutHi, .idOutLo], off = r.offset) : Served s (.write off d) s
  | exit {e : PortEvent} (he : Exits e) : Served s e (resetBlock s)
  | faultWrite {off : Offset} {d : Word} {c : FaultCause} {info : BitVec 16} (h : Raises s (.write off d) c info) :
      Served s (.write off d) (raiseFault c info s)
  | operand {e : PortEvent} {t : State} (h : HostWrite s e t) : Served s e t
  | init {w : Word} (hw : decode w = .instr .init) : Served s (.write 0x18 w) (startMessage s)
  | absorb {w : Word} {i : Instr} (hw : decode w = .instr i) {bytes : List Byte}
      (hi : (∃ x, i = .absb x ∧ bytes = [x]) ∨ ∃ n, i = .absw n ∧ bytes = mdataBytes s.mdata n) (hact : s.act = true) : Served s (.write 0x18 w) (absorbBytes s bytes)
  | final {w : Word} (hw : decode w = .instr .final) (hact : s.act = true) : Served s (.write 0x18 w) (finalize s)
  | facade {w : Word} {i : Instr} {ver : BitVec 4} (hw : decode w = .instr i)
      (hi : i = .encode ∧ ver = 4 ∨ i = .decode ∧ ver = 7) :
      Served s (.write 0x18 w) (deliver (hashFacade s) (transform s.idIn s.k0 s.k1 ver))
  | gen7 {w : Word} (hw : decode w = .instr .gen7) :
      Served s (.write 0x18 w) (deliver s (stamp s.idIn (s.time.extractLsb' 0 48) 7))

/-- Only the word of R93 decodes to `RST`. -/
theorem decode_eq_rst_iff {w : Word} : decode w = .instr .rst ↔ w = 0x7F := by
  constructor
  · intro h
    obtain ⟨hhigh, hop, harg⟩ := legalAs_of_decode h
    exact word_eq_of_fields hop harg hhigh
  · rintro rfl
    decide

/-- What a command does when `ERR = 0` is what the write of its word does (R97 step 5). -/
theorem Served.of_exec {w : Word} {i : Instr} {s t : State} (hok : s.err = false) (hw : decode w = .instr i)
    (h : exec i s = .next t) : Served s (.write 0x18 w) t := by
  obtain ⟨rfl, rfl⟩ | ⟨-, herr, -⟩ | ⟨-, h⟩ := exec_cases h
  · exact .exit (.inr (by rw [decode_eq_rst_iff.mp hw]))
  · simp [hok] at herr
  · obtain ⟨rfl, rfl⟩ | ⟨x, rfl, hact, rfl⟩ | ⟨n, rfl, hact, rfl⟩ | ⟨rfl, hact, rfl⟩ | ⟨hi, hact, rfl⟩ | ⟨rfl, rfl⟩ |
      ⟨rfl, rfl⟩ | ⟨rfl, rfl⟩ := h
    · exact .init hw
    · exact .absorb hw (.inl ⟨x, rfl, rfl⟩) hact
    · exact .absorb hw (.inr ⟨n, rfl, rfl⟩) hact
    · exact .final hw hact
    · exact .faultWrite (.seq hw hi hact)
    · exact .facade hw (.inl ⟨rfl, rfl⟩)
    · exact .facade hw (.inr ⟨rfl, rfl⟩)
    · exact .gen7 hw

/-- What a write to a register does when `ERR = 0` (R67). -/
theorem Served.of_writeReg {r : Reg} {d : Word} {s t : State} (hok : s.err = false) (h : writeReg r d s = .next t) :
    Served s (.write r.offset d) t := by
  obtain ⟨rfl, rfl⟩ | ⟨rfl, rfl⟩ | ⟨rfl, rfl⟩ | ⟨rfl, rfl⟩ | ⟨rfl, rfl⟩ | ⟨rfl, rfl⟩ | ⟨hr, rfl⟩ | ⟨rfl, hcmd⟩ :=
    writeReg_cases h
  · exact .operand (.k0 d)
  · exact .operand (.k1 d)
  · exact .operand (.mdata d)
  · exact .operand (.time d)
  · exact .operand (.idInHi d)
  · exact .operand (.idInLo d)
  · exact .ignored d (.inr ⟨r, by simpa using hr, rfl⟩)
  · obtain ⟨i, hw, hexec⟩ | ⟨⟨why, hw⟩, rfl⟩ := hcmd
    · exact .of_exec hok hw hexec
    · exact .faultWrite (.illcmd hw)

/-- Inversion of `serve`. -/
theorem Served.of_serve {e : PortEvent} {s t : State} (h : serve e s = .next t) : Served s e t := by
  obtain ⟨off, rfl, rfl⟩ | ⟨rfl, rfl⟩ | ⟨off, d, rfl, herr, -, rfl⟩ | ⟨rfl, -, rfl⟩ | ⟨off, d, rfl, hok, hoff, rfl⟩ |
    ⟨r, d, rfl, hok, hreg⟩ := serve_cases h
  · obtain ⟨r, rfl, hread⟩ | ⟨hoff, hread⟩ := readPort_cases off s
    · rw [hread]; exact .read r
    · rw [hread]; exact .faultRead (.badRead hoff)
  · exact .exit (.inl rfl)
  · exact .ignored d (.inl herr)
  · exact .exit (.inr rfl)
  · exact .faultWrite (.badWrite d hoff)
  · exact .of_writeReg hok hreg

/-- A step of a port with an event at its head does one of the things `Served` lists. -/
theorem Served.of_step {s t : State} {e : PortEvent} {rest : List PortEvent} (hport : s.port = e :: rest)
    (h : step s = .next t) : Served { s with port := rest } e t :=
  .of_serve ((step_of_event hport).symm.trans h)

/-- An idle step leaves the state, any other serves the port's head. -/
theorem eq_or_served_of_step {s t : State} (h : step s = .next t) :
    t = s ∨ ∃ e rest, s.port = e :: rest ∧ Served { s with port := rest } e t := by
  obtain ⟨-, hidle⟩ | ⟨e, rest, hport, -⟩ := step_cases s
  · exact .inl (Host.Outcome.next.inj (h.symm.trans hidle))
  · exact .inr ⟨e, rest, hport, .of_step hport h⟩

/-- A write of an operand register leaves every element but the operand registers as it is. -/
theorem HostWrite.exists_eq {s t : State} {e : PortEvent} (h : HostWrite s e t) :
    ∃ a b m id x, t = { s with k0 := a, k1 := b, mdata := m, idIn := id, time := x } := by
  cases h <;> exact ⟨_, _, _, _, _, rfl⟩

/-- The events that exit the faulted state are the hardware reset and the writes of a word that decodes to `RST`. -/
theorem eq_reset_or_rst_of_exits {e : PortEvent} (h : Exits e) :
    e = .reset ∨ ∃ w, e = .write 0x18 w ∧ decode w = .instr .rst := by
  obtain rfl | rfl := h
  · exact .inl rfl
  · exact .inr ⟨_, rfl, decode_eq_rst_iff.mpr rfl⟩

/-! ### `hashFacade` (R175, R182): the operand registers are kept -/

@[simp] theorem hashFacade_k0 (s : State) : (hashFacade s).k0 = s.k0 := by simp [hashFacade]

@[simp] theorem hashFacade_k1 (s : State) : (hashFacade s).k1 = s.k1 := by simp [hashFacade]

@[simp] theorem hashFacade_mdata (s : State) : (hashFacade s).mdata = s.mdata := by simp [hashFacade]

@[simp] theorem hashFacade_idIn (s : State) : (hashFacade s).idIn = s.idIn := by simp [hashFacade]

@[simp] theorem hashFacade_time (s : State) : (hashFacade s).time = s.time := by simp [hashFacade]

/-! ### Invariants -/

/-- The operations an event is made of keep `P`: what there is to show of an invariant of the block. -/
structure KeptByOperations (P : State → Prop) : Prop where
  /-- `P` is about the block, not about the environment's two fields (log 1, log 3). -/
  environment : ∀ {s : State} (p : List PortEvent) (r : Option Word), P s → P { s with port := p, lastRead := r }
  operands : ∀ {s : State} (a b m : Word) (id : Ident) (x : Word), P s →
    P { s with k0 := a, k1 := b, mdata := m, idIn := id, time := x }
  raiseFault : ∀ {s : State} {e : PortEvent} {c : FaultCause} {info : BitVec 16}, Raises s e c info → P s →
    P (raiseFault c info s)
  resetBlock : ∀ s : State, P (resetBlock s)
  startMessage : ∀ {s : State}, P s → P (startMessage s)
  absorbByte : ∀ {s : State} (x : Byte), s.act = true → P s → P (absorbByte s x)
  finalize : ∀ {s : State}, s.act = true → P s → P (finalize s)
  deliver : ∀ {s : State} (id : Ident) (ts : BitVec 48) {ver : BitVec 4}, ver = 4 ∨ ver = 7 → P s →
    P (deliver s (stamp id ts ver))

namespace KeptByOperations

variable {P : State → Prop} {s t : State} {e : PortEvent}

theorem absorbBytes (h : KeptByOperations P) (hact : s.act = true) (hs : P s) (bytes : List Byte) :
    P (absorbBytes s bytes) := by
  induction bytes generalizing s with
  | nil => exact hs
  | cons x rest ih => exact ih (by simpa using hact) (h.absorbByte x hact hs)

theorem hashFacade (h : KeptByOperations P) (hs : P s) : P (hashFacade s) :=
  h.finalize (by simp) (h.absorbBytes rfl (h.startMessage hs) _)

theorem served (h : KeptByOperations P) (hs : P s) (ht : Served s e t) : P t := by
  cases ht with
  | read r => exact h.environment _ _ hs
  | faultRead hf => exact h.environment _ _ (h.raiseFault hf hs)
  | ignored d hd => exact hs
  | exit he => exact h.resetBlock s
  | faultWrite hf => exact h.raiseFault hf hs
  | operand hw =>
    obtain ⟨a, b, m, id, x, rfl⟩ := hw.exists_eq
    exact h.operands a b m id x hs
  | init hw => exact h.startMessage hs
  | absorb hw hi hact => exact h.absorbBytes hact hs _
  | final hw hact => exact h.finalize hact hs
  | facade hw hi => exact h.deliver _ _ (hi.imp And.right And.right) (h.hashFacade hs)
  | gen7 hw => exact h.deliver _ _ (.inr rfl) hs

/-- An invariant of the operations is an invariant of every step. -/
theorem step (h : KeptByOperations P) (hs : P s) (ht : step s = .next t) : P t := by
  obtain rfl | ⟨e, rest, -, hserved⟩ := eq_or_served_of_step ht
  · exact hs
  · exact h.served (h.environment rest s.lastRead hs) hserved

end KeptByOperations

/-- The nonzero codes of R211. -/
theorem FaultCause.code_ne_zero (c : FaultCause) : c.code ≠ 0 := by
  cases c <;> decide

theorem FaultCause.code_le_three (c : FaultCause) : c.code.toNat ≤ 3 := by
  cases c <;> decide

/-- A byte put above the `8 * n` bits already filled fills eight more (R136 step 1). -/
theorem or_shiftLeft_byte_lt {tail : Word} {n : Nat} (h : tail.toNat < 2 ^ (8 * n)) (x : Byte) :
    (tail ||| (x.setWidth 64 <<< (8 * n))).toNat < 2 ^ (8 * (n + 1)) := by
  rw [BitVec.toNat_or]
  refine Nat.or_lt_two_pow (h.trans_le (Nat.pow_le_pow_right (by decide) (by omega))) ?_
  calc (x.setWidth 64 <<< (8 * n)).toNat
      ≤ x.toNat * 2 ^ (8 * n) := by
        rw [BitVec.toNat_shiftLeft, Nat.shiftLeft_eq, BitVec.toNat_setWidth_of_le (by decide)]
        exact Nat.mod_le _ _
    _ < 2 ^ 8 * 2 ^ (8 * n) := Nat.mul_lt_mul_of_pos_right x.isLt (Nat.two_pow_pos _)
    _ = 2 ^ (8 * (n + 1)) := by rw [← Nat.pow_add]; congr 1; omega

/-- R42 (a) at a byte: with seven bytes pending the block is compressed and `TAIL` is empty, else `TAIL` grows by one byte. -/
theorem absorbByte_tail_bound {s : State} (h : s.tail.toNat < 2 ^ (8 * s.nb.toNat)) (x : Byte) :
    (absorbByte s x).tail.toNat < 2 ^ (8 * (absorbByte s x).nb.toNat) := by
  by_cases hnb : s.nb = 7
  · rw [absorbByte_of_full hnb]
    exact Nat.one_pos
  · have hsucc : (s.nb + 1).toNat = s.nb.toNat + 1 := by bv_omega
    rw [absorbByte_of_room hnb, hsucc]
    exact or_shiftLeft_byte_lt h x

end Sys2Proof.Machine

namespace Sys2Proof.Safety

open Sys2Proof.Machine

/-! ### The invariants of R42 (a) to (e) -/

theorem inv_raiseFault {s : State} (h : Inv s) (c : FaultCause) (info : BitVec 16) : Inv (raiseFault c info s) := by
  cases herr : s.err with
  | true => rwa [raiseFault_of_err c info herr]
  | false =>
    rw [raiseFault_of_ok c info herr]
    exact { h with
      err_iff := ⟨nofun, fun hcode => absurd hcode c.code_ne_zero⟩
      info_of_ok := nofun
      code_bound := c.code_le_three }

theorem inv_absorbByte {s : State} (h : Inv s) (x : Byte) : Inv (absorbByte s x) where
  tail_bound := absorbByte_tail_bound h.tail_bound x
  nb_of_act hact := by
    have := h.nb_of_act (by simpa using hact)
    rw [absorbByte_nb, absorbByte_len]
    bv_omega
  err_iff := by simpa using h.err_iff
  info_of_ok := by simpa using h.info_of_ok
  code_bound := by simpa using h.code_bound
  digest_of_dv := by simpa using h.digest_of_dv
  idOut_of_ov := by simpa using h.idOut_of_ov

theorem inv_resetBlock (s : State) : Inv (resetBlock s) where
  tail_bound := Nat.one_pos
  nb_of_act := nofun
  err_iff := by simp
  info_of_ok _ := rfl
  code_bound := Nat.zero_le 3
  digest_of_dv _ := rfl
  idOut_of_ov _ := rfl

/-- The operations keep R42 (a) to (e): a byte moves `NB` and `LEN` on together, a fault writes a code and its flag together, and
`DIGEST` and `ID_OUT` are written with their flags. -/
theorem inv_kept : KeptByOperations Inv where
  environment _ _ h := { h with }
  operands _ _ _ _ _ h := { h with }
  raiseFault _ h := inv_raiseFault h _ _
  resetBlock := inv_resetBlock
  startMessage h := { h with
    tail_bound := Nat.one_pos
    nb_of_act := fun _ => rfl
    digest_of_dv := fun _ => rfl }
  absorbByte x _ h := inv_absorbByte h x
  finalize _ h := { h with
    tail_bound := Nat.one_pos
    nb_of_act := nofun
    digest_of_dv := nofun }
  deliver _ _ _ _ h := { h with idOut_of_ov := nofun }

/-- Settles O47: every operation keeps the invariants, so every step does. -/
theorem everyStepKeepsTheInvariants : Obligations.EveryStepKeepsTheInvariants :=
  fun _ _ => inv_kept.step

end Sys2Proof.Safety

/-! Hidden state (R41): an event's effect on what the host can see is a function of what the host can see, but for the digest and
the identifier that `FINAL`, `ENCODE` and `DECODE` compute. Each operation is shown to have the same visible effect once the
hidden elements are cleared. -/

namespace Sys2Proof.Machine

/-- The state with the hidden elements `K0`, `K1`, `V0`..`V3`, `TAIL` cleared (R20, R41). -/
def visible (s : State) : State := { s with k0 := 0, k1 := 0, v := ⟨0, 0, 0, 0⟩, tail := 0 }

/-- What is left of the visible elements without `DIGEST` and `ID_OUT`. -/
def outline (s : State) : State := { visible s with digest := 0, idOut := State.reset.idOut }

/-- A function of the visible elements only. -/
def OfVisible (f : State → State) : Prop := ∀ s, f (visible s) = f s

theorem ofVisible_visible : OfVisible visible := fun _ => rfl

theorem ofVisible_outline : OfVisible outline := fun _ => rfl

theorem OfVisible.congr {f : State → State} (hf : OfVisible f) {s t : State} (h : visible s = visible t) : f s = f t := by
  rw [← hf s, h, hf t]

@[simp] theorem visible_nb (s : State) : (visible s).nb = s.nb := rfl

/-! ### The shared operations -/

theorem raiseFault_visible (c : FaultCause) (info : BitVec 16) (s : State) :
    raiseFault c info (visible s) = visible (raiseFault c info s) := by
  cases h : s.err with
  | true => rw [raiseFault_of_err c info h, raiseFault_of_err c info (s := visible s) h]
  | false => rw [raiseFault_of_ok c info h, raiseFault_of_ok c info (s := visible s) h]; rfl

/-- A byte's visible effect is on `NB` and `LEN`, whose next values do not depend on the hidden `TAIL` and `V` (R136). -/
theorem visible_absorbByte (s : State) (x : Byte) :
    visible (absorbByte s x) = { visible s with nb := (visible s).nb + 1, len := (visible s).len + 1 } := by
  rw [visible_nb, ← absorbByte_nb s x]
  by_cases hnb : s.nb = 7
  · rw [absorbByte_of_full hnb]; rfl
  · rw [absorbByte_of_room hnb]; rfl

theorem absorbByte_congr {s t : State} (h : visible s = visible t) (x : Byte) :
    visible (absorbByte s x) = visible (absorbByte t x) := by
  rw [visible_absorbByte, visible_absorbByte, h]

theorem absorbBytes_congr {s t : State} (h : visible s = visible t) (bytes : List Byte) :
    visible (absorbBytes s bytes) = visible (absorbBytes t bytes) := by
  induction bytes generalizing s t with
  | nil => exact h
  | cons x rest ih => exact ih (absorbByte_congr h x)

theorem readReg_visible (r : Reg) (s : State) : readReg r (visible s) = readReg r s := by
  cases r <;> rfl

/-- A read answers the same whatever the hidden elements hold (R41). -/
theorem readPort_visible (off : Offset) (s : State) :
    readPort off (visible s) = (visible (readPort off s).1, (readPort off s).2) := by
  cases h : regAt off with
  | none => simp only [readPort, h, raiseFault_visible]
  | some r => simp only [readPort, h, readReg_visible]

/-- What finalizing and delivering write of the hidden elements, they write to `DIGEST` and `ID_OUT` (R137, R28). -/
theorem outline_deliver_finalize_congr {s t : State} (h : visible s = visible t) (out out' : Ident) :
    outline (deliver (finalize s) out) = outline (deliver (finalize t) out') := by
  have hvisible (u : State) : outline (deliver (finalize u) out) = outline (deliver (finalize (visible u)) out') := rfl
  rw [hvisible, h]
  rfl

/-- The digest of the facade message shows in `DIGEST` and `ID_OUT` only. -/
theorem outline_facade (s : State) (out out' : Ident) :
    outline (deliver (hashFacade (visible s)) out) = outline (deliver (hashFacade s) out') :=
  outline_deliver_finalize_congr
    (absorbBytes_congr (s := startMessage (visible s)) (t := startMessage s) rfl (facadeMsg s.idIn)) out out'

section
variable {f : State → State} (hf : OfVisible f) {s : State} {go go' : Host.Outcome State Fault Refusal}
include hf

theorem acceptCommand_visible (h : mapNext f go' = mapNext f go) :
    mapNext f (acceptCommand (visible s) go') = mapNext f (acceptCommand s go) := by
  cases hs : s.err with
  | true => rw [acceptCommand_of_err hs, acceptCommand_of_err (s := visible s) hs, mapNext_next, mapNext_next, hf]
  | false => rw [acceptCommand_of_ok hs, acceptCommand_of_ok (s := visible s) hs, h]

theorem inMessage_visible (i : Instr) (h : mapNext f go' = mapNext f go) :
    mapNext f (inMessage i (visible s) go') = mapNext f (inMessage i s go) := by
  cases hs : s.act with
  | true => rw [inMessage_of_act i hs, inMessage_of_act i (s := visible s) hs, h]
  | false =>
    rw [inMessage_of_idle i hs, inMessage_of_idle i (s := visible s) hs, raiseFault_visible, mapNext_next, mapNext_next, hf]

theorem mapNext_next_congr {s t : State} (h : visible s = visible t) : mapNext f (.next s) = mapNext f (.next t) :=
  congrArg Host.Outcome.next (hf.congr h)

/-! ### Commands and events -/

/-- A command that computes no digest has a visible effect that depends on the visible elements only. -/
theorem exec_visible {i : Instr} (hi : i ≠ .final ∧ i ≠ .encode ∧ i ≠ .decode) (s : State) :
    mapNext f (exec i (visible s)) = mapNext f (exec i s) := by
  obtain ⟨hfinal, hencode, hdecode⟩ := hi
  cases i with
  | init => exact acceptCommand_visible hf (mapNext_next_congr hf rfl)
  | absb x =>
    exact acceptCommand_visible hf (inMessage_visible hf _ (mapNext_next_congr hf (absorbByte_congr (ofVisible_visible s) x)))
  | absw n =>
    exact acceptCommand_visible hf (inMessage_visible hf _ (mapNext_next_congr hf (absorbBytes_congr (ofVisible_visible s) _)))
  | final => exact absurd rfl hfinal
  | encode => exact absurd rfl hencode
  | decode => exact absurd rfl hdecode
  | gen7 => exact acceptCommand_visible hf (mapNext_next_congr hf rfl)
  | rst => rfl

/-- The commands are the only place where hidden state could show: an event has the same `f`-effect on the visible part as
soon as the command it runs, if any, does. -/
theorem serve_visible {e : PortEvent}
    (hexec : ∀ w i, e = .write 0x18 w → decode w = .instr i → ∀ s, mapNext f (exec i (visible s)) = mapNext f (exec i s))
    (s : State) : mapNext f (serve e (visible s)) = mapNext f (serve e s) := by
  cases e with
  | read off =>
    change mapNext f (.next (answerRead (readPort off (visible s)))) = mapNext f (.next (answerRead (readPort off s)))
    rw [readPort_visible]
    exact mapNext_next_congr hf rfl
  | reset => rfl
  | write off d =>
    change mapNext f (writePort off d (visible s)) = mapNext f (writePort off d s)
    cases hs : s.err with
    | true =>
      rw [writePort_of_err hs, writePort_of_err (s := visible s) hs]
      split
      · rfl
      · exact mapNext_next_congr hf rfl
    | false =>
      cases hr : regAt off with
      | none =>
        rw [writePort_of_bad hs hr, writePort_of_bad (s := visible s) hs hr, raiseFault_visible]
        exact mapNext_next_congr hf rfl
      | some r =>
        obtain rfl := offset_of_regAt hr
        rw [writePort_of_reg hs, writePort_of_reg (s := visible s) hs]
        cases r with
        | cmd =>
          change mapNext f (runCommand d (visible s)) = mapNext f (runCommand d s)
          cases hd : decode d with
          | instr i => rw [runCommand_of_instr hd, runCommand_of_instr hd, hexec d i rfl hd]
          | illegal why =>
            rw [runCommand_of_illegal hd, runCommand_of_illegal hd, raiseFault_visible]
            exact mapNext_next_congr hf rfl
        | _ => exact mapNext_next_congr hf rfl

end

/-- The outline after any command depends on the visible elements only: the digest commands write hidden state to `DIGEST` and
`ID_OUT` alone. -/
theorem exec_outline (i : Instr) (s : State) :
    mapNext outline (exec i (visible s)) = mapNext outline (exec i s) := by
  by_cases hi : i ≠ .final ∧ i ≠ .encode ∧ i ≠ .decode
  · exact exec_visible ofVisible_outline hi s
  · obtain rfl | rfl | rfl : i = .final ∨ i = .encode ∨ i = .decode := by tauto
    · exact acceptCommand_visible ofVisible_outline (inMessage_visible ofVisible_outline _ rfl)
    · exact acceptCommand_visible ofVisible_outline (congrArg Host.Outcome.next (outline_facade s _ _))
    · exact acceptCommand_visible ofVisible_outline (congrArg Host.Outcome.next (outline_facade s _ _))

/-- Two states with the same visible elements, given the same event, leave states that a function `f` of the visible elements
does not tell apart. -/
theorem OfVisible.eq_of_serve {f : State → State} (hf : OfVisible f) {e : PortEvent}
    (hexec : ∀ w i, e = .write 0x18 w → decode w = .instr i → ∀ s, mapNext f (exec i (visible s)) = mapNext f (exec i s))
    {s t s' t' : State} (h : visible s = visible t) (hs : serve e s = .next s') (ht : serve e t = .next t') :
    f s' = f t' := by
  have hst : mapNext f (serve e s) = mapNext f (serve e t) := by
    rw [← serve_visible hf hexec s, h, serve_visible hf hexec t]
  rw [hs, ht] at hst
  exact Host.Outcome.next.inj hst

end Sys2Proof.Machine

namespace Sys2Proof.Safety

open Sys2Proof.Machine

/-- Equal visible parts are equal visible elements, and an equal environment. -/
theorem visible_eq_iff {s t : State} :
    visible s = visible t ↔ SameVisible s t ∧ s.port = t.port ∧ s.lastRead = t.lastRead := by
  constructor
  · intro h
    simp only [visible, State.mk.injEq] at h
    obtain ⟨-, -, -, -, hnb, hlen, hact, hdigest, hdv, hmdata, hidIn, hidOut, hov, htime, herr, hcode, hinfo, hport,
      hread⟩ := h
    exact ⟨⟨hnb, hlen, hact, hdigest, hdv, hmdata, hidIn, hidOut, hov, htime, herr, hcode, hinfo⟩, hport, hread⟩
  · rintro ⟨⟨hnb, hlen, hact, hdigest, hdv, hmdata, hidIn, hidOut, hov, htime, herr, hcode, hinfo⟩, hport, hread⟩
    simp only [visible, hnb, hlen, hact, hdigest, hdv, hmdata, hidIn, hidOut, hov, htime, herr, hcode, hinfo, hport, hread]

/-- Equal outlines are equal visible parts once `DIGEST` and `ID_OUT` are made equal. -/
theorem visible_eq_of_outline_eq {s t : State} (h : outline s = outline t) :
    visible s = visible { t with digest := s.digest, idOut := s.idOut } :=
  congrArg (fun u => { u with digest := s.digest, idOut := s.idOut }) h

/-- Settles O56: the outline after an event, and the whole visible part unless the event computes a digest, is a function of the
visible part before it (the host's copy of the last read among it, log 3, and the events to come, log 1). -/
theorem hiddenStateShowsOnlyInDigestAndIdOut : Obligations.HiddenStateShowsOnlyInDigestAndIdOut := by
  intro s t s' t' e rest hvis hread hs ht hs' ht'
  have hst : visible { s with port := rest } = visible { t with port := rest } :=
    visible_eq_iff.mpr ⟨{ hvis with }, rfl, hread⟩
  rw [step_of_event hs] at hs'
  rw [step_of_event ht] at ht'
  have houtline := ofVisible_outline.eq_of_serve (fun _ i _ _ => exec_outline i) hst hs' ht'
  obtain ⟨hsame, hport', hread'⟩ := visible_eq_iff.mp (visible_eq_of_outline_eq houtline)
  refine ⟨hread', hport', hsame, fun hcmd => ?_⟩
  have hvisible :=
    ofVisible_visible.eq_of_serve (fun w i he hw => exec_visible ofVisible_visible (hcmd w i he hw)) hst hs' ht'
  exact (visible_eq_iff.mp hvisible).1

end Sys2Proof.Safety

/-! The other statements of spec/10_state.md: the `STATUS` word, reset, and who may write which element. -/

namespace Sys2Proof.Machine

open Sys2Proof.Safety

/-! ### Fields placed in a word (R35) -/

/-- A field is read back from its place. -/
theorem extractLsb'_shiftLeft_same {n : Nat} (x : BitVec n) (k : Nat) (h : k + n ≤ 64) :
    (x.setWidth 64 <<< k).extractLsb' k n = x := by
  apply BitVec.eq_of_getLsbD_eq
  intro j hj
  simp [show k + j < 64 by omega, hj]

/-- A field leaves the bits outside its place at 0. -/
theorem extractLsb'_shiftLeft_of_disjoint {n : Nat} (x : BitVec n) (k i m : Nat) (h : k + n ≤ i ∨ i + m ≤ k) :
    (x.setWidth 64 <<< k).extractLsb' i m = 0#m := by
  apply BitVec.eq_of_getLsbD_eq
  intro j hj
  have hx : i + j < k ∨ n ≤ i + j - k := by omega
  obtain hlow | hhigh := hx
  · simp [hlow]
  · simp [BitVec.getLsbD_of_ge x _ hhigh]

theorem flagBit_eq (b : Bool) : flagBit b = (BitVec.ofBool b).setWidth 64 := by
  cases b <;> rfl

/-- `STATUS` as fields placed in a word, `ERR` in bit 0 (R35). -/
theorem statusWord_eq (s : State) : statusWord s =
    ((BitVec.ofBool s.err).setWidth 64 <<< 0) ||| ((BitVec.ofBool s.act).setWidth 64 <<< 1) |||
    ((BitVec.ofBool s.dv).setWidth 64 <<< 2) ||| ((BitVec.ofBool s.ov).setWidth 64 <<< 3) ||| (s.nb.setWidth 64 <<< 8) |||
    (s.len.setWidth 64 <<< 16) ||| (s.errCode.setWidth 64 <<< 24) ||| (s.errInfo.setWidth 64 <<< 32) := by
  simp only [statusWord, flagBit_eq, BitVec.shiftLeft_zero]

/-! ### Reset -/

/-- The hardware reset and the write of `RST`'s word reset the block in every state, the faulted one too (R200, R217, R240). -/
theorem serve_of_exits {e : PortEvent} (he : Exits e) (s : State) : serve e s = .next (resetBlock s) := by
  obtain rfl | rfl := he
  · rfl
  · change writePort Reg.cmd.offset 0x7F s = .next (resetBlock s)
    cases hs : s.err with
    | true => exact (writePort_of_err hs _ _).trans (if_pos ⟨rfl, rfl⟩)
    | false => exact (writePort_of_reg hs .cmd 0x7F).trans (runCommand_of_instr (decode_eq_rst_iff.mpr rfl) s)

theorem allZero_resetBlock (s : State) : AllZero (resetBlock s) := by
  constructor <;> rfl

/-- Every register of the block in its reset state reads 0 (R43). -/
theorem readReg_of_allZero {s : State} (h : AllZero s) (r : Reg) : readReg r s = 0 := by
  cases r with
  | k0 | k1 | cmd => rfl
  | mdata => exact h.mdata
  | digest => exact h.digest
  | time => exact h.time
  | status =>
    rw [readReg, statusWord, h.err, h.act, h.dv, h.ov, h.nb, h.len, h.errCode, h.errInfo]
    rfl
  | idInHi | idInLo => rw [readReg, h.idIn]; rfl
  | idOutHi | idOutLo => rw [readReg, h.idOut]; rfl

/-! ### Who writes which element -/

/-- `ACT` is set by `INIT` alone, and cleared by an exit or by a command that ends a message (R24). -/
theorem Served.act_cases {s t : State} {e : PortEvent} (h : Served s e t) :
    t.act = s.act ∨
    (∃ w, e = .write 0x18 w ∧ decode w = .instr .init ∧ t.act = true) ∨
    (t.act = false ∧ (Exits e ∨
      ∃ w i, e = .write 0x18 w ∧ decode w = .instr i ∧ (i = .final ∨ i = .encode ∨ i = .decode))) := by
  cases h with
  | read r => exact .inl rfl
  | faultRead hf => exact .inl (by simp)
  | ignored d hd => exact .inl rfl
  | exit he => exact .inr (.inr ⟨rfl, .inl he⟩)
  | faultWrite hf => exact .inl (by simp)
  | operand hw =>
    obtain ⟨a, b, m, id, x, rfl⟩ := hw.exists_eq
    exact .inl rfl
  | init hw => exact .inr (.inl ⟨_, rfl, hw, rfl⟩)
  | absorb hw hi hact => exact .inl (by simp)
  | final hw hact => exact .inr (.inr ⟨rfl, .inr ⟨_, _, rfl, hw, .inl rfl⟩⟩)
  | facade hw hi => exact .inr (.inr ⟨rfl, .inr ⟨_, _, rfl, hw, .inr (hi.imp And.left And.left)⟩⟩)
  | gen7 hw => exact .inl rfl

/-- A result is kept but by an exit, and replaced by a command that delivers one (R28). -/
theorem Served.result_cases {s t : State} {e : PortEvent} (h : Served s e t) :
    (t.ov = s.ov ∧ t.idOut = s.idOut) ∨ Exits e ∨
    (t.ov = true ∧ ∃ w i, e = .write 0x18 w ∧ decode w = .instr i ∧ (i = .encode ∨ i = .decode ∨ i = .gen7)) := by
  cases h with
  | read r => exact .inl ⟨rfl, rfl⟩
  | faultRead hf => exact .inl (by simp)
  | ignored d hd => exact .inl ⟨rfl, rfl⟩
  | exit he => exact .inr (.inl he)
  | faultWrite hf => exact .inl (by simp)
  | operand hw =>
    obtain ⟨a, b, m, id, x, rfl⟩ := hw.exists_eq
    exact .inl ⟨rfl, rfl⟩
  | init hw => exact .inl ⟨rfl, rfl⟩
  | absorb hw hi hact => exact .inl (by simp)
  | final hw hact => exact .inl ⟨rfl, rfl⟩
  | facade hw hi => exact .inr (.inr ⟨rfl, _, _, rfl, hw, hi.imp And.left (.inl ∘ And.left)⟩)
  | gen7 hw => exact .inr (.inr ⟨rfl, _, _, rfl, hw, .inr (.inr rfl)⟩)

/-- The operand registers hold the same in both states (R21, R26, R27, R29). -/
structure SameOperands (s t : State) : Prop where
  k0 : t.k0 = s.k0
  k1 : t.k1 = s.k1
  mdata : t.mdata = s.mdata
  time : t.time = s.time
  idIn : t.idIn = s.idIn

/-- No command and no read writes an operand register. -/
theorem Served.operand_cases {s t : State} {e : PortEvent} (h : Served s e t) :
    SameOperands s t ∨ Exits e ∨ HostWrite s e t := by
  cases h with
  | exit he => exact .inr (.inl he)
  | operand hw => exact .inr (.inr hw)
  | faultRead hf => exact .inl (by constructor <;> simp)
  | faultWrite hf => exact .inl (by constructor <;> simp)
  | absorb hw hi hact => exact .inl (by constructor <;> simp)
  | facade hw hi => exact .inl (by constructor <;> simp)
  | _ => exact .inl ⟨rfl, rfl, rfl, rfl, rfl⟩

end Sys2Proof.Machine

namespace Sys2Proof.Safety

open Sys2Proof.Machine

/-- Settles O13: each field is read back from its place, and every other field is 0 there. -/
theorem statusWordHoldsEachFieldInItsPlace : Obligations.StatusWordHoldsEachFieldInItsPlace := by
  intro s
  simp (disch := decide) only [statusWord_eq, BitVec.extractLsb'_or, extractLsb'_shiftLeft_same,
    extractLsb'_shiftLeft_of_disjoint, BitVec.or_zero, BitVec.zero_or, BitVec.ofNat_eq_ofNat, and_self]

/-- Settles O40: either exit is served by `resetBlock`, whose elements and registers are all 0. -/
theorem resetLeavesEveryElementZero : Obligations.ResetLeavesEveryElementZero :=
  fun s _ he => ⟨resetBlock s, serve_of_exits he s, allZero_resetBlock s, readReg_of_allZero (allZero_resetBlock s)⟩

/-- The operations keep `NB = 0` outside a message and `DV = 0` inside one. -/
theorem messageInv_kept : KeptByOperations MessageInv where
  environment _ _ h := { h with }
  operands _ _ _ _ _ h := { h with }
  raiseFault _ h := ⟨by simpa using h.nb_idle, by simpa using h.dv_of_act⟩
  resetBlock _ := ⟨fun _ => rfl, nofun⟩
  startMessage _ := ⟨nofun, fun _ => rfl⟩
  absorbByte x hact h := ⟨by simp [hact], by simpa using h.dv_of_act⟩
  finalize _ _ := ⟨fun _ => rfl, nofun⟩
  deliver _ _ _ _ h := { h with }

/-- Settles O48: every operation keeps the invariant, so every step does. -/
theorem everyStepKeepsTheMessageInvariant : Obligations.EveryStepKeepsTheMessageInvariant :=
  fun _ _ => messageInv_kept.step

/-- Settles O51: the reset state is a block just reset. -/
theorem resetMeetsTheInvariants : Obligations.ResetMeetsTheInvariants :=
  ⟨inv_resetBlock .reset, messageInv_kept.resetBlock .reset, nofun,
    ⟨fun h => absurd h (by decide), fun h => absurd h (by decide)⟩, ⟨rfl, rfl, rfl, rfl, rfl⟩⟩

/-- An event that runs no `INIT`, `ENCODE` or `DECODE` keeps a zero datapath: with `ACT = 0` nothing is absorbed or finalized. -/
theorem datapathZero_of_served {s t : State} {e : PortEvent} (hs : DatapathZero s) (h : Served s e t)
    (hcmd : ∀ w i, e = .write 0x18 w → decode w = .instr i → i ≠ .init ∧ i ≠ .encode ∧ i ≠ .decode) : DatapathZero t := by
  have hidle : s.act ≠ true := by simp [hs.act_clear]
  obtain ⟨hv, htail, hnb, hlen, hact⟩ := hs
  cases h with
  | read r => exact ⟨hv, htail, hnb, hlen, hact⟩
  | faultRead hf => constructor <;> simpa
  | ignored d hd => exact ⟨hv, htail, hnb, hlen, hact⟩
  | exit he => exact ⟨rfl, rfl, rfl, rfl, rfl⟩
  | faultWrite hf => constructor <;> simpa
  | operand hw =>
    obtain ⟨a, b, m, id, x, rfl⟩ := hw.exists_eq
    exact ⟨hv, htail, hnb, hlen, hact⟩
  | init hw => exact absurd rfl (hcmd _ _ rfl hw).1
  | absorb hw hi hact' => exact absurd hact' hidle
  | final hw hact' => exact absurd hact' hidle
  | facade hw hi =>
    obtain ⟨-, hencode, hdecode⟩ := hcmd _ _ rfl hw
    obtain ⟨rfl, -⟩ | ⟨rfl, -⟩ := hi
    · exact absurd rfl hencode
    · exact absurd rfl hdecode
  | gen7 hw => exact ⟨hv, htail, hnb, hlen, hact⟩

/-- Settles O52, by the cases of the event the step serves. -/
theorem datapathStaysZeroUntilAMessage : Obligations.DatapathStaysZeroUntilAMessage := by
  intro s t hs ht hcmd
  obtain rfl | ⟨e, rest, hport, hserved⟩ := eq_or_served_of_step ht
  · exact hs
  · have hs' : DatapathZero { s with port := rest } := { hs with }
    exact datapathZero_of_served hs' hserved fun w i he hw => hcmd w rest i (he ▸ hport) hw

/-- Settles O53, by the three things an event can do to `ACT`. -/
theorem onlyMessageCommandsChangeAct : Obligations.OnlyMessageCommandsChangeAct := by
  intro s t ht
  obtain rfl | ⟨e, rest, hport, hserved⟩ := eq_or_served_of_step ht
  · exact ⟨fun h h' => by simp [h] at h', fun h h' => by simp [h] at h'⟩
  obtain hkeep | ⟨w, rfl, hw, hset⟩ | ⟨hclear, hend⟩ := hserved.act_cases
  · exact ⟨fun h h' => by simp [hkeep, h] at h', fun h h' => by simp [hkeep, h] at h'⟩
  · exact ⟨fun _ _ => ⟨w, rest, hport, hw⟩, fun _ h' => by simp [hset] at h'⟩
  · refine ⟨fun _ h' => by simp [hclear] at h', fun _ _ => ⟨e, rest, hport, ?_⟩⟩
    obtain he | ⟨w, i, he, hw, hi⟩ := hend
    · exact (eq_reset_or_rst_of_exits he).imp_right fun ⟨w, he, hw⟩ => ⟨w, .rst, he, hw, by simp⟩
    · exact .inr ⟨w, i, he, hw, by tauto⟩

/-- Settles O54, by the three things an event can do to a result. -/
theorem resultIsKeptUntilReplacedOrReset : Obligations.ResultIsKeptUntilReplacedOrReset := by
  intro s t e rest hport ht
  obtain ⟨hov, hidOut⟩ | he | ⟨hov, w, i, he, hw, hi⟩ := (Served.of_step hport ht).result_cases
  · exact ⟨fun h _ => hov.trans h, fun h => absurd hidOut h⟩
  · exact ⟨fun _ h => absurd he h, fun _ =>
      (eq_reset_or_rst_of_exits he).imp_right fun ⟨w, he, hw⟩ => ⟨w, .rst, he, hw, by simp⟩⟩
  · exact ⟨fun _ _ => hov, fun _ => .inr ⟨w, i, he, hw, by tauto⟩⟩

/-- Settles O55: a host's write changes the one register it names, and nothing else but an exit changes any. -/
theorem operandRegistersAreWrittenOnlyByTheHost : Obligations.OperandRegistersAreWrittenOnlyByTheHost := by
  intro s t e rest hport ht hexit
  obtain ⟨hk0, hk1, hmdata, htime, hidIn⟩ | he | hwrite := (Served.of_step hport ht).operand_cases
  · exact ⟨absurd hk0, absurd hk1, absurd hmdata, absurd htime, absurd hidIn⟩
  · exact absurd he hexit
  · cases hwrite with
    | k0 d => simp
    | k1 d => simp
    | mdata d => simp
    | time d => simp
    | idInHi d => simp [idHi_setIdHi, idLo_setIdHi]
    | idInLo d => simp [idHi_setIdLo, idLo_setIdLo]

end Sys2Proof.Safety

/-! The statements of spec/20_memory.md: the read and the write transaction at each offset, and the write of a legal command word. -/

namespace Sys2Proof.Machine

/-! ### Offsets that hold no register (R40) -/

theorem regAt_of_misaligned_or_above {off : Offset} (h : off.extractLsb' 0 3 ≠ 0 ∨ 0x50 < off) : regAt off = none :=
  (regAt_eq_none_iff off).mpr (by simpa [badOffset] using h)

/-! ### The read transaction (R66) -/

theorem readPort_offset (r : Reg) (s : State) : readPort r.offset s = (s, readReg r s) := by
  simp [readPort]

theorem readPort_of_bad {off : Offset} (hoff : regAt off = none) (s : State) :
    readPort off s = (raiseFault .badacc (accessInfo false off) s, 0) := by
  simp [readPort, hoff]

/-- Each register's offset with the value it reads as, in the order of R66's table. -/
def registerMap (s : State) : List (Offset × Word) :=
  [Reg.k0, .k1, .mdata, .cmd, .status, .digest, .idInHi, .idInLo, .idOutHi, .idOutLo, .time].map
    fun r => (r.offset, readReg r s)

theorem readPort_of_mem_registerMap {s : State} {off : Offset} {d : Word} (h : (off, d) ∈ registerMap s) :
    readPort off s = (s, d) := by
  obtain ⟨r, -, hr⟩ := List.mem_map.mp h
  obtain ⟨rfl, rfl⟩ := Prod.mk.inj hr
  exact readPort_offset r s

/-! ### The bytes of an identifier after a write of one half (R67) -/

theorem setIdHi_getElem_high (id : Ident) (d : Word) (k : Fin 8) :
    (setIdHi id d)[k.val]'(by omega) = d.extractLsb' (56 - 8 * k) 8 := by
  fin_cases k <;> rfl

theorem setIdHi_getElem_low (id : Ident) (d : Word) (k : Fin 8) :
    (setIdHi id d)[8 + k.val]'(by omega) = id[8 + k.val]'(by omega) := by
  fin_cases k <;> rfl

theorem setIdLo_getElem_low (id : Ident) (d : Word) (k : Fin 8) :
    (setIdLo id d)[8 + k.val]'(by omega) = d.extractLsb' (56 - 8 * k) 8 := by
  fin_cases k <;> rfl

theorem setIdLo_getElem_high (id : Ident) (d : Word) (k : Fin 8) :
    (setIdLo id d)[k.val]'(by omega) = id[k.val]'(by omega) := by
  fin_cases k <;> rfl

/-! ### The write transaction (R67) -/

/-- A write to a read-only register has no effect. -/
theorem writePort_of_readOnly {s : State} (hok : s.err = false) {off : Offset}
    (hoff : off ∈ [(0x20 : Offset), 0x28, 0x40, 0x48]) (d : Word) : writePort off d s = .next s := by
  simp only [List.mem_cons, List.not_mem_nil, or_false] at hoff
  obtain rfl | rfl | rfl | rfl := hoff
  · exact writePort_of_reg hok .status d
  · exact writePort_of_reg hok .digest d
  · exact writePort_of_reg hok .idOutHi d
  · exact writePort_of_reg hok .idOutLo d

/-- A write of a legal word to `CMD` is its command, in the faulted state too: there the port lets only `RST`'s word through (R217),
and the other commands are ignored by `exec` itself (R97; log 10). -/
theorem writePort_cmd_of_instr {w : Word} {i : Instr} (hw : decode w = .instr i) (s : State) :
    writePort 0x18 w s = exec i s := by
  cases hs : s.err with
  | false => exact (writePort_of_reg hs .cmd w).trans (runCommand_of_instr hw s)
  | true =>
    rw [writePort_of_err hs]
    by_cases hi : i = .rst
    · subst hi
      rw [if_pos ⟨rfl, decode_eq_rst_iff.mp hw⟩]
    · have hword : w ≠ 0x7F := by
        rintro rfl
        exact hi (Decoded.instr.inj (hw.symm.trans (decode_eq_rst_iff.mpr rfl)))
      rw [if_neg fun h => hword h.2, exec_of_err hs hi]

end Sys2Proof.Machine

namespace Sys2Proof.Safety

open Sys2Proof.Machine

/-- Settles O11: an offset holds a register, whose value is read, or it is bad and the fault is raised once. -/
theorem readTransactionAnswersTheRegister : Obligations.ReadTransactionAnswersTheRegister := by
  intro s off
  refine ⟨fun d h => readPort_of_mem_registerMap h, fun hbad hok => ?_, fun hbad herr => ?_⟩
  · rw [readPort_of_bad (regAt_of_misaligned_or_above hbad), raiseFault_of_ok _ _ hok]
    simp [FaultCause.code, accessInfo]
  · rw [readPort_of_bad (regAt_of_misaligned_or_above hbad), raiseFault_of_err _ _ herr]

/-- Settles O12, clause by clause: a write in the faulted state, at a bad offset, and at each register. -/
theorem writeTransactionChangesOnlyTheElementNamed : Obligations.WriteTransactionChangesOnlyTheElementNamed := by
  intro s off d
  refine ⟨?rst, ?faulted, ?bad, ?k0, ?k1, ?mdata, ?cmd, ?idInHi, ?idInLo, ?time, ?readOnly⟩
  case rst => exact fun herr hoff hd => (writePort_of_err herr off d).trans (if_pos ⟨hoff, hd⟩)
  case faulted => exact fun herr hword => (writePort_of_err herr off d).trans (if_neg hword)
  case bad =>
    intro hok hbad
    rw [writePort_of_bad hok (regAt_of_misaligned_or_above hbad), raiseFault_of_ok _ _ hok]
    rfl
  case k0 => rintro hok rfl; exact writePort_of_reg hok .k0 d
  case k1 => rintro hok rfl; exact writePort_of_reg hok .k1 d
  case mdata => rintro hok rfl; exact writePort_of_reg hok .mdata d
  case cmd => rintro hok rfl; exact writePort_of_reg hok .cmd d
  case idInHi =>
    rintro hok rfl
    exact ⟨setIdHi s.idIn d, writePort_of_reg hok .idInHi d, setIdHi_getElem_high s.idIn d, setIdHi_getElem_low s.idIn d⟩
  case idInLo =>
    rintro hok rfl
    exact ⟨setIdLo s.idIn d, writePort_of_reg hok .idInLo d, setIdLo_getElem_low s.idIn d, setIdLo_getElem_high s.idIn d⟩
  case time => rintro hok rfl; exact writePort_of_reg hok .time d
  case readOnly => exact fun hok hoff => writePort_of_readOnly hok hoff d

/-- Settles O8: the step serves the write, which runs the decoded command. -/
theorem stepRunsTheDecodedCommand : Obligations.StepRunsTheDecodedCommand :=
  fun _ _ _ _ hport hw => (step_of_event hport).trans (writePort_cmd_of_instr hw _)

end Sys2Proof.Safety

/-! The statements of spec/30_encoding.md about the command word: `decode` and `encode` are inverse on the well-formed commands, the
opcode map R93 describes the same words, and there are 270 of them. All rest on the fields of a word: `decode w = .instr i` says that
bits 63:16 are zero and the other fields are those of `i` (`decode_eq_instr_iff`). -/

namespace Sys2Proof

open Sys2Proof.Machine

/-! ### The decoder in terms of the word's fields (R97) -/

/-- The converse of `legalAs_of_decode`. -/
theorem decode_of_legalAs {w : Word} {i : Instr} (hhigh : reservedHigh w = 0) (h : LegalAs w i) : decode w = .instr i := by
  cases i with
  | absb imm8 =>
    obtain ⟨hop, harg⟩ := h
    simp [decode, hhigh, hop, decodeI, harg]
  | absw n =>
    obtain ⟨hop, hres, hn⟩ := h
    simp [decode, hhigh, hop, decodeN_eq_instr, hres, hn]
  | init | final | encode | decode | gen7 | rst =>
    obtain ⟨hop, harg⟩ := h
    simp [Sys2Proof.decode, hhigh, hop, decodeZ_eq_instr, harg]

/-- What the decoder answers, read off the word's fields. -/
theorem decode_eq_instr_iff {w : Word} {i : Instr} : decode w = .instr i ↔ reservedHigh w = 0 ∧ LegalAs w i :=
  ⟨legalAs_of_decode, fun h => decode_of_legalAs h.1 h.2⟩

/-- A legal word's command is well formed: `NM1` has three bits, so the count is 1 to 8 (R92). -/
theorem wellFormed_of_legalAs {w : Word} {i : Instr} (h : LegalAs w i) : i.WellFormed := by
  cases i with
  | absw n =>
    obtain ⟨-, -, rfl⟩ := h
    exact ⟨Nat.succ_pos _, (nm1Field w).isLt⟩
  | init | absb | final | encode | decode | gen7 | rst => trivial

/-- A command has one legal word: it fixes `OP` and `ARG`. -/
theorem word_eq_of_legalAs {w v : Word} {i : Instr} (hhigh : reservedHigh w = reservedHigh v) (hw : LegalAs w i)
    (hv : LegalAs v i) : w = v := by
  cases i with
  | absw n =>
    obtain ⟨hopw, hresw, hnw⟩ := hw
    obtain ⟨hopv, hresv, hnv⟩ := hv
    have hnm1 : nm1Field w = nm1Field v := BitVec.eq_of_toNat_eq (by omega)
    refine word_eq_of_fields (hopw.trans hopv.symm) ?_ hhigh
    rw [argField_of_reservedN hresw, argField_of_reservedN hresv, hnm1]
  | init | absb | final | encode | decode | gen7 | rst =>
    exact word_eq_of_fields (hw.1.trans hv.1.symm) (hw.2.trans hv.2.symm) hhigh

/-! ### The word of a command (R93, R100) -/

/-- The word of a well-formed command has the fields R97 asks of it. -/
theorem legalAs_encode {i : Instr} (h : i.WellFormed) : reservedHigh (encode i) = 0 ∧ LegalAs (encode i) i := by
  cases i with
  | absb imm8 =>
    simp (disch := decide) [LegalAs, encode, reservedHigh, opField, argField, extractLsb'_shiftLeft_same,
      extractLsb'_shiftLeft_of_disjoint, BitVec.extractLsb'_or]
  | absw n =>
    obtain ⟨h1, h8⟩ := h
    interval_cases n <;> exact ⟨rfl, rfl, rfl, rfl⟩
  | init | final | encode | decode | gen7 | rst => exact ⟨rfl, rfl, rfl⟩

/-- Settles O2: the word of a command has its fields, and the fields are what the decoder reads. -/
theorem decodeOfEncodeIsTheCommand : Obligations.DecodeOfEncodeIsTheCommand :=
  fun _ h => decode_eq_instr_iff.mpr (legalAs_encode h)

/-- Settles O3: a word that decodes has the same fields as the word of its command. -/
theorem encodeOfDecodeIsTheWord : Obligations.EncodeOfDecodeIsTheWord := by
  intro w i h
  obtain ⟨hhigh, hw⟩ := decode_eq_instr_iff.mp h
  have hwf := wellFormed_of_legalAs hw
  obtain ⟨hhigh', hi⟩ := legalAs_encode hwf
  exact ⟨hwf, word_eq_of_legalAs (hhigh'.trans hhigh.symm) hi hw⟩

/-- Settles O1, by evaluating the decoder on each word. -/
theorem sampleWordsDecodeToTheirCommands : Obligations.SampleWordsDecodeToTheirCommands := by
  unfold Obligations.SampleWordsDecodeToTheirCommands
  decide

/-! ### The opcode map (R93) -/

/-- The word of each well-formed command selects its command's row, by the lemma about each command. -/
theorem encode_selects (i : Instr) : Laws.EncodedWordSelectsRow.Statement i := by
  cases i with
  | init => exact Laws.EncodedWordSelectsRow.init
  | absb imm8 => exact Laws.EncodedWordSelectsRow.absb imm8
  | absw n => exact Laws.EncodedWordSelectsRow.absw n
  | final => exact Laws.EncodedWordSelectsRow.final
  | encode => exact Laws.EncodedWordSelectsRow.encode
  | decode => exact Laws.EncodedWordSelectsRow.decode
  | gen7 => exact Laws.EncodedWordSelectsRow.gen7
  | rst => exact Laws.EncodedWordSelectsRow.rst

/-- The mnemonics of R93's table are different, so a mnemonic names one row. -/
theorem row_eq_of_mnemonic {r q : OpRow} (hr : r ∈ opTable) (hq : q ∈ opTable) (h : r.mnemonic = q.mnemonic) : r = q :=
  List.inj_on_of_nodup_map (f := OpRow.mnemonic) (l := opTable) (by decide) hr hq h

/-- A row whose mask is all ones is selected by its own word `v` only. -/
theorem decode_of_selects_fullMask {w v : Word} {i : Instr} (h : w &&& BitVec.allOnes 64 = v) (hv : decode v = .instr i) :
    decode w = .instr i := by
  rwa [← h, BitVec.and_allOnes] at hv

/-- A field that a row's mask keeps whole has the value it has in the row's match. -/
theorem field_eq_of_selects {w mask v : Word} {i n : Nat} (h : w &&& mask = v)
    (hmask : mask.extractLsb' i n = BitVec.allOnes n) : w.extractLsb' i n = v.extractLsb' i n := by
  rw [← h, BitVec.extractLsb'_and, hmask, BitVec.and_allOnes]

/-- The mask of `ABSB`'s row leaves out `ARG` only. -/
theorem decode_of_selects_absb {w : Word} (h : w &&& 0xFFFFFFFFFFFF00FF = 0x02) : decode w = .instr (.absb (argField w)) :=
  decode_of_legalAs (field_eq_of_selects h rfl) ⟨field_eq_of_selects h rfl, rfl⟩

/-- The mask of `ABSW`'s row leaves out `NM1` only. -/
theorem decode_of_selects_absw {w : Word} (h : w &&& 0xFFFFFFFFFFFFF8FF = 0x03) :
    decode w = .instr (.absw ((nm1Field w).toNat + 1)) :=
  decode_of_legalAs (field_eq_of_selects h rfl) ⟨field_eq_of_selects h rfl, field_eq_of_selects h rfl, rfl⟩

/-- A word that selects a row decodes to the row's command. -/
theorem exists_decode_of_selects {w : Word} {r : OpRow} (hr : r ∈ opTable) (h : r.Selects w) :
    ∃ i, decode w = .instr i ∧ i.mnemonic = r.mnemonic := by
  simp only [opTable, List.mem_cons, List.not_mem_nil, or_false] at hr
  obtain rfl | rfl | rfl | rfl | rfl | rfl | rfl | rfl := hr
  · exact ⟨.init, decode_of_selects_fullMask h rfl, rfl⟩
  · exact ⟨_, decode_of_selects_absb h, rfl⟩
  · exact ⟨_, decode_of_selects_absw h, rfl⟩
  · exact ⟨.final, decode_of_selects_fullMask h rfl, rfl⟩
  · exact ⟨.encode, decode_of_selects_fullMask h rfl, rfl⟩
  · exact ⟨.decode, decode_of_selects_fullMask h rfl, rfl⟩
  · exact ⟨.gen7, decode_of_selects_fullMask h rfl, rfl⟩
  · exact ⟨.rst, decode_of_selects_fullMask h rfl, rfl⟩

/-- A word selects a row exactly when it decodes to the row's command: a word that decodes is its command's word (O3), which selects
its command's row. -/
theorem selects_iff {w : Word} {r : OpRow} (hr : r ∈ opTable) :
    r.Selects w ↔ ∃ i, decode w = .instr i ∧ i.mnemonic = r.mnemonic := by
  refine ⟨exists_decode_of_selects hr, ?_⟩
  rintro ⟨i, hw, hname⟩
  obtain ⟨hwf, rfl⟩ := encodeOfDecodeIsTheWord w i hw
  obtain ⟨q, hq, hqname, hsel⟩ := encode_selects i hwf
  rwa [row_eq_of_mnemonic hr hq (hname.symm.trans hqname.symm)]

/-- Settles O4: two rows that a word selects have the mnemonic of the one command it decodes to. -/
theorem decoderSelectsTheOpcodeMapRow : Obligations.DecoderSelectsTheOpcodeMapRow := by
  refine ⟨fun w r hr => selects_iff hr, fun w r hr q hq hrw hqw => ?_⟩
  obtain ⟨i, hi, hir⟩ := (selects_iff hr).mp hrw
  obtain ⟨k, hk, hkq⟩ := (selects_iff hq).mp hqw
  obtain rfl : i = k := Decoded.instr.inj (hi.symm.trans hk)
  exact row_eq_of_mnemonic hr hq (hir.symm.trans hkq)

/-! ### The number of legal words (R94, R95) -/

/-- The 6 commands without operand, the 256 `ABSB` and the 8 `ABSW` (R95). -/
def wellFormedInstrs : List Instr :=
  [.init, .final, .encode, .decode, .gen7, .rst] ++ (List.finRange 256).map (fun x => .absb (.ofFin x)) ++
    (List.range' 1 8).map .absw

theorem mem_wellFormedInstrs_iff {i : Instr} : i ∈ wellFormedInstrs ↔ i.WellFormed := by
  cases i with
  | absb imm8 => simp [wellFormedInstrs]
  | absw n => simp [wellFormedInstrs, Nat.lt_succ_iff]
  | init | final | encode | decode | gen7 | rst => simp [wellFormedInstrs]

theorem wellFormedInstrs_nodup : wellFormedInstrs.Nodup := by
  have habsb : ((List.finRange 256).map (fun x => Instr.absb (.ofFin x))).Nodup :=
    (List.nodup_finRange 256).map fun x y h => by simpa using h
  have habsw : ((List.range' 1 8).map Instr.absw).Nodup :=
    (List.nodup_range' (step := 1)).map fun x y h => by simpa using h
  refine List.nodup_append.mpr ⟨List.nodup_append.mpr ⟨by decide, habsb, ?_⟩, habsw, ?_⟩
  · simp
  · intro i hi k hk
    obtain ⟨n, -, rfl⟩ := List.mem_map.mp hk
    rintro rfl
    simp at hi

/-- Different well-formed commands have different words, since each is read back (O2). -/
theorem encode_injOn {i k : Instr} (hi : i.WellFormed) (hk : k.WellFormed) (h : encode i = encode k) : i = k := by
  have hdec := decodeOfEncodeIsTheCommand i hi
  rw [h, decodeOfEncodeIsTheCommand k hk] at hdec
  exact (Decoded.instr.inj hdec).symm

/-- Settles O5: the legal words are the words of the well-formed commands, all different. -/
theorem exactlyTwoHundredSeventyWordsAreLegal : Obligations.ExactlyTwoHundredSeventyWordsAreLegal := by
  refine ⟨wellFormedInstrs.map encode, ?_, ?_, fun w => ?_⟩
  · exact wellFormedInstrs_nodup.map_on fun i hi k hk =>
      encode_injOn (mem_wellFormedInstrs_iff.mp hi) (mem_wellFormedInstrs_iff.mp hk)
  · simp [wellFormedInstrs]
  · simp only [List.mem_map, mem_wellFormedInstrs_iff]
    constructor
    · rintro ⟨i, hi, rfl⟩
      exact ⟨i, decodeOfEncodeIsTheCommand i hi⟩
    · rintro ⟨i, h⟩
      exact ⟨i, encodeOfDecodeIsTheWord w i h⟩

end Sys2Proof

/-! The bytes of a packed word, little-endian and big-endian (spec/00_scope.md R13): the message blocks of R106 and the identifier
registers of R104. -/

namespace Sys2Proof.Machine

open Sys2Proof.Safety

/-! ### Little-endian words (R13) -/

/-- A word shifted up by a byte holds the bits of the word eight places higher. -/
theorem extractLsb'_shiftLeft_byte (x : Word) {i n : Nat} (h : i + 8 + n ≤ 64) :
    (x <<< 8).extractLsb' (i + 8) n = x.extractLsb' i n := by
  apply BitVec.eq_of_getLsbD_eq
  intro j hj
  have hsub : i + 8 + j - 8 = i + j := by omega
  simp [hj, hsub, show i + 8 + j < 64 by omega, show ¬i + 8 + j < 8 by omega,
    BitVec.getLsbD_eq_getElem (show i + j < 64 by omega)]

/-- Byte `k` of `LE64(B)` is `B[k]`, and 0 where `B` has ended. -/
theorem extractLsb'_le64 (bytes : List Byte) {k : Nat} (hk : k < 8) :
    (le64 bytes).extractLsb' (8 * k) 8 = bytes.getD k 0 := by
  induction bytes generalizing k with
  | nil => simp
  | cons b rest ih =>
    rw [le64_cons, BitVec.extractLsb'_or]
    cases k with
    | zero =>
      have hb := extractLsb'_shiftLeft_same b 0 (by decide)
      have hrest := extractLsb'_shiftLeft_of_disjoint (le64 rest) 8 0 8 (.inr (by decide))
      rw [BitVec.shiftLeft_zero] at hb
      rw [BitVec.setWidth_eq] at hrest
      rw [Nat.mul_zero, hb, hrest]
      exact BitVec.or_zero
    | succ k =>
      have hb := extractLsb'_shiftLeft_of_disjoint b 0 (8 * (k + 1)) 8 (.inl (by omega))
      rw [BitVec.shiftLeft_zero] at hb
      rw [hb, Nat.mul_succ, extractLsb'_shiftLeft_byte _ (by omega), ih (by omega)]
      exact BitVec.zero_or

/-- The bytes of a word made of at most eight bytes (R26, R101). -/
theorem mdataBytes_le64 {bytes : List Byte} (h : bytes.length ≤ 8) : mdataBytes (le64 bytes) bytes.length = bytes := by
  apply List.ext_getElem (mdataBytes_length _ _)
  intro k hk hk'
  simp [mdataBytes, mdataByte, extractLsb'_le64 bytes (show k < 8 by omega), hk']

/-! ### The blocks of a message (R106) -/

/-- The bytes of a message after its full blocks (R106). -/
def remainder (msg : List Byte) : List Byte := msg.drop (8 * (msg.length / 8))

theorem finalBlock_eq (msg : List Byte) :
    finalBlock msg = le64 (remainder msg) ||| lengthByte (BitVec.ofNat 8 (msg.length % 256)) := rfl

theorem remainder_length (msg : List Byte) : (remainder msg).length = msg.length % 8 := by
  rw [remainder, List.length_drop]
  omega

theorem fullBlocks_length (msg : List Byte) : (fullBlocks msg).length = msg.length / 8 := by
  simp [fullBlocks]

theorem fullBlocks_getD {msg : List Byte} {j : Nat} (h : j < msg.length / 8) : (fullBlocks msg).getD j 0 = fullBlock msg j := by
  simp [fullBlocks, h]

theorem extractLsb'_fullBlock (msg : List Byte) (j : Nat) {k : Nat} (hk : k < 8) :
    (fullBlock msg j).extractLsb' (8 * k) 8 = msg.getD (8 * j + k) 0 := by
  rw [fullBlock, extractLsb'_le64 _ hk]
  simp [List.getD_eq_getElem?_getD, hk]

/-- The remainder has at most 7 bytes, so the length byte stands above it (R106). -/
theorem extractLsb'_finalBlock_length (msg : List Byte) :
    (finalBlock msg).extractLsb' 56 8 = BitVec.ofNat 8 (msg.length % 256) := by
  have hrem : (remainder msg).length ≤ 7 := by rw [remainder_length]; omega
  rw [finalBlock_eq, BitVec.extractLsb'_or, lengthByte, extractLsb'_shiftLeft_same _ _ (by decide),
    extractLsb'_le64 (k := 7) _ (by decide), List.getD_eq_default _ _ hrem]
  exact BitVec.zero_or

theorem extractLsb'_finalBlock_byte (msg : List Byte) {k : Nat} (hk : k < 7) :
    (finalBlock msg).extractLsb' (8 * k) 8 = msg.getD (8 * (msg.length / 8) + k) 0 := by
  rw [finalBlock_eq, BitVec.extractLsb'_or, lengthByte, extractLsb'_shiftLeft_of_disjoint _ _ _ _ (.inr (by omega)),
    extractLsb'_le64 _ (by omega), BitVec.or_zero]
  simp [remainder, List.getD_eq_getElem?_getD]

/-- Settles O16, byte by byte: a full block packs eight bytes of the message, the final block its remainder and its length. -/
theorem messageBlocksPackTheBytesLittleEndian : Obligations.MessageBlocksPackTheBytesLittleEndian := by
  refine fun msg => ⟨fullBlocks_length msg, fun j k hj hk => ?_, fun k hk => extractLsb'_finalBlock_byte msg hk,
    extractLsb'_finalBlock_length msg⟩
  rw [fullBlocks_getD hj, extractLsb'_fullBlock msg j hk]

/-! ### The identifier registers (R63, R104) -/

/-- A field of a field. -/
theorem extractLsb'_extractLsb' {w n m : Nat} (x : BitVec w) (i j : Nat) (h : j + m ≤ n) :
    (x.extractLsb' i n).extractLsb' j m = x.extractLsb' (i + j) m := by
  apply BitVec.eq_of_getLsbD_eq
  intro b hb
  simp [hb, show j + b < n by omega, Nat.add_assoc]

theorem be64Byte_idHi (id : Ident) (k : Fin 8) : be64Byte (idHi id) k = id[k.val]'(by omega) := by
  obtain ⟨h0, h1, h2, h3, h4, h5, h6, h7⟩ := be64Byte_be64 id[0] id[1] id[2] id[3] id[4] id[5] id[6] id[7]
  fin_cases k <;> assumption

theorem be64Byte_idLo (id : Ident) (k : Fin 8) : be64Byte (idLo id) k = id[8 + k.val]'(by omega) := by
  obtain ⟨h0, h1, h2, h3, h4, h5, h6, h7⟩ := be64Byte_be64 id[8] id[9] id[10] id[11] id[12] id[13] id[14] id[15]
  fin_cases k <;> assumption

/-- The six bytes of `w[63:16]` are the first six of `w`. -/
theorem be48Byte_extractLsb' (w : Word) {k : Nat} (hk : k < 6) : be48Byte (w.extractLsb' 16 48) k = be64Byte w k := by
  rw [be48Byte, be64Byte, extractLsb'_extractLsb' _ _ _ (by omega)]
  congr 1
  omega

/-- `ts = HI[63:16]` (R104). -/
theorem extractLsb'_idHi_timestamp (id : Ident) : (idHi id).extractLsb' 16 48 = timestamp id := by
  have hbyte : ∀ k (hk : k < 6), be48Byte ((idHi id).extractLsb' 16 48) k = id[k] := fun k hk =>
    (be48Byte_extractLsb' _ hk).trans (be64Byte_idHi id ⟨k, by omega⟩)
  rw [← be48_be48Byte ((idHi id).extractLsb' 16 48)]
  simp [hbyte, timestamp]

/-- A field within byte `k` of `HI` is the field of the identifier's byte. -/
theorem extractLsb'_idHi (id : Ident) (k : Fin 8) (j m : Nat) (h : j + m ≤ 8) :
    (idHi id).extractLsb' (56 - 8 * k + j) m = (id[k.val]'(by omega)).extractLsb' j m := by
  rw [← be64Byte_idHi, be64Byte, extractLsb'_extractLsb' _ _ _ h]

/-- A field within byte `k` of `LO` is the field of the identifier's byte `8 + k`. -/
theorem extractLsb'_idLo (id : Ident) (k : Fin 8) (j m : Nat) (h : j + m ≤ 8) :
    (idLo id).extractLsb' (56 - 8 * k + j) m = (id[8 + k.val]'(by omega)).extractLsb' j m := by
  rw [← be64Byte_idLo, be64Byte, extractLsb'_extractLsb' _ _ _ h]

/-- Settles O14: every field but the timestamp lies within one byte of its register half. -/
theorem identifierRegistersAreBigEndian : Obligations.IdentifierRegistersAreBigEndian := fun id =>
  ⟨extractLsb'_idHi_timestamp id, extractLsb'_idHi id 6 4 4 (by decide), extractLsb'_idHi id 6 0 4 (by decide),
    be64Byte_idHi id 7, extractLsb'_idLo id 0 6 2 (by decide), extractLsb'_idLo id 0 0 6 (by decide), be64Byte_idHi id,
    be64Byte_idLo id⟩

end Sys2Proof.Machine

/-! The pseudo-operation `HASH` of spec/30_encoding.md R101. A streamed message keeps the invariant of R142, `Absorbed`: the words are
those of the full blocks so far, and `TAIL`, `NB`, `LEN` those of the bytes so far. `INIT` sets it up, every byte and so every chunk
keeps it, and `FINAL` of a state that has it computes `SipHash24` of the bytes absorbed. The events of `HASH` are those of a message in
chunks of eight bytes and the remainder. -/

namespace Sys2Proof.Machine

/-! ### The blocks of a message that grows by a byte (R106) -/

/-- A full block stays the same when the message grows. -/
theorem fullBlock_append {msg : List Byte} (more : List Byte) {j : Nat} (h : 8 * j + 8 ≤ msg.length) :
    fullBlock (msg ++ more) j = fullBlock msg j := by
  rw [fullBlock, fullBlock, List.drop_append_of_le_length (by omega), List.take_append_of_le_length (by rw [List.length_drop]; omega)]

/-- The blocks that were full already. -/
theorem map_fullBlock_append (msg more : List Byte) :
    (List.range (msg.length / 8)).map (fullBlock (msg ++ more)) = fullBlocks msg := by
  refine List.map_congr_left fun j hj => fullBlock_append more ?_
  have := List.mem_range.mp hj
  omega

theorem length_div_append_of_room {msg : List Byte} (h : msg.length % 8 ≠ 7) (x : Byte) :
    (msg ++ [x]).length / 8 = msg.length / 8 := by
  rw [List.length_append, List.length_singleton]
  omega

theorem length_div_append_of_full {msg : List Byte} (h : msg.length % 8 = 7) (x : Byte) :
    (msg ++ [x]).length / 8 = msg.length / 8 + 1 := by
  rw [List.length_append, List.length_singleton]
  omega

theorem fullBlocks_append_of_room {msg : List Byte} (h : msg.length % 8 ≠ 7) (x : Byte) :
    fullBlocks (msg ++ [x]) = fullBlocks msg := by
  rw [fullBlocks, length_div_append_of_room h, map_fullBlock_append]

theorem remainder_append_of_room {msg : List Byte} (h : msg.length % 8 ≠ 7) (x : Byte) :
    remainder (msg ++ [x]) = remainder msg ++ [x] := by
  rw [remainder, length_div_append_of_room h, List.drop_append_of_le_length (by omega)]
  rfl

/-- The eighth byte makes the remainder and itself a full block. -/
theorem fullBlocks_append_of_full {msg : List Byte} (h : msg.length % 8 = 7) (x : Byte) :
    fullBlocks (msg ++ [x]) = fullBlocks msg ++ [le64 (remainder msg ++ [x])] := by
  have hlast : fullBlock (msg ++ [x]) (msg.length / 8) = le64 (remainder msg ++ [x]) := by
    rw [fullBlock, List.drop_append_of_le_length (by omega), List.take_of_length_le (by simp; omega)]
    rfl
  rw [fullBlocks, length_div_append_of_full h, List.range_succ, List.map_append,
    map_fullBlock_append, List.map_singleton, hlast]

theorem remainder_append_of_full {msg : List Byte} (h : msg.length % 8 = 7) (x : Byte) : remainder (msg ++ [x]) = [] := by
  apply List.eq_nil_of_length_eq_zero
  rw [remainder_length, List.length_append, List.length_singleton]
  omega

/-- A byte packed above the remainder. -/
theorem le64_remainder_append (msg : List Byte) (x : Byte) :
    le64 (remainder msg ++ [x]) = le64 (remainder msg) ||| (x.setWidth 64 <<< (8 * (msg.length % 8))) := by
  simp [le64_append, le64_cons, remainder_length]

/-! ### The invariant of a message in progress (R142) -/

/-- The SipHash words after the full blocks of a message (R133 step 2). -/
def blockWords (k0 k1 : Word) (msg : List Byte) : SipWords :=
  (fullBlocks msg).foldl (fun v m => compress m v) (initWords k0 k1)

/-- R142's invariant: the block is in a message, without a fault, and has absorbed the bytes `msg` under the key `k0`, `k1`. -/
structure Absorbed (k0 k1 : Word) (msg : List Byte) (s : State) : Prop where
  v : s.v = blockWords k0 k1 msg
  nb : s.nb.toNat = msg.length % 8
  tail : s.tail = le64 (remainder msg)
  len : s.len = BitVec.ofNat 8 msg.length
  act : s.act = true
  err : s.err = false

theorem absorbed_startMessage {s : State} (hok : s.err = false) : Absorbed s.k0 s.k1 [] (startMessage s) where
  v := rfl
  nb := rfl
  tail := rfl
  len := rfl
  act := rfl
  err := hok

namespace Absorbed

variable {k0 k1 : Word} {msg : List Byte} {s : State}

/-- `MDATA` is no part of the invariant. -/
theorem write_mdata (h : Absorbed k0 k1 msg s) (d : Word) : Absorbed k0 k1 msg { s with mdata := d } :=
  ⟨h.v, h.nb, h.tail, h.len, h.act, h.err⟩

/-- A byte on its way (R136): the eighth completes a full block, any other joins the remainder. -/
theorem absorbByte (h : Absorbed k0 k1 msg s) (x : Byte) : Absorbed k0 k1 (msg ++ [x]) (absorbByte s x) := by
  have hnb7 : s.nb = 7 ↔ msg.length % 8 = 7 := by rw [← h.nb, ← BitVec.toNat_inj]; rfl
  have htail : s.tail ||| (x.setWidth 64 <<< (8 * s.nb.toNat)) = le64 (remainder msg ++ [x]) := by
    rw [le64_remainder_append, h.tail, h.nb]
  have hlen : s.len + 1 = BitVec.ofNat 8 (msg ++ [x]).length := by
    rw [h.len, List.length_append, BitVec.ofNat_add]; rfl
  by_cases hfull : s.nb = 7
  · have hmod := hnb7.mp hfull
    rw [absorbByte_of_full hfull, htail]
    refine ⟨?_, ?_, ?_, hlen, h.act, h.err⟩
    · rw [blockWords, fullBlocks_append_of_full hmod, List.foldl_append]
      simp [h.v, blockWords]
    · simp; omega
    · rw [remainder_append_of_full hmod]; rfl
  · have hmod := mt hnb7.mpr hfull
    rw [absorbByte_of_room hfull, htail]
    refine ⟨?_, ?_, ?_, hlen, h.act, h.err⟩
    · rw [blockWords, fullBlocks_append_of_room hmod]; exact h.v
    · have := h.nb
      simp; omega
    · rw [remainder_append_of_room hmod]

theorem absorbBytes (h : Absorbed k0 k1 msg s) (bytes : List Byte) :
    Absorbed k0 k1 (msg ++ bytes) (absorbBytes s bytes) := by
  induction bytes generalizing msg s with
  | nil => simpa using h
  | cons x rest ih => simpa using ih (h.absorbByte x)

/-- `Finalize()` compresses the final block and computes the digest of the bytes absorbed (R133, R137). -/
theorem digest_finalize (h : Absorbed k0 k1 msg s) : (finalize s).digest = sipHash24 msg k0 k1 := by
  have hfinal : s.tail ||| lengthByte s.len = finalBlock msg := by
    have hlen : BitVec.ofNat 8 msg.length = BitVec.ofNat 8 (msg.length % 256) := BitVec.eq_of_toNat_eq (by simp)
    rw [finalBlock_eq, h.tail, h.len, hlen]
  rw [finalize_digest, finalize_v, hfinal, h.v]
  rfl

end Absorbed

/-! ### The transactions of a message -/

/-- A well-formed command's line runs the command (R97, R100). -/
theorem serve_command {i : Instr} (h : i.WellFormed) (s : State) : serve (command i) s = exec i s :=
  writePort_cmd_of_instr (decodeOfEncodeIsTheCommand i h) s

/-- `WR MDATA, word` (R67). -/
theorem serve_wr_mdata {s : State} (hok : s.err = false) (word : Word) :
    serve (wr .mdata word) s = .next { s with mdata := word } :=
  writePort_of_reg hok .mdata word

theorem exec_init {s : State} (hok : s.err = false) : exec .init s = .next (startMessage s) :=
  acceptCommand_of_ok hok _

theorem exec_absb {s : State} (hok : s.err = false) (hact : s.act = true) (x : Byte) :
    exec (.absb x) s = .next (absorbByte s x) :=
  (acceptCommand_of_ok hok _).trans (inMessage_of_act _ hact _)

theorem exec_absw {s : State} (hok : s.err = false) (hact : s.act = true) (n : Nat) :
    exec (.absw n) s = .next (absorbBytes s (mdataBytes s.mdata n)) :=
  (acceptCommand_of_ok hok _).trans (inMessage_of_act _ hact _)

theorem exec_final {s : State} (hok : s.err = false) (hact : s.act = true) : exec .final s = .next (finalize s) :=
  (acceptCommand_of_ok hok _).trans (inMessage_of_act _ hact _)

end Sys2Proof.Machine

namespace Sys2Proof.Safety

open Sys2Proof.Machine

theorem serveAll_cons {e : PortEvent} {s t : State} (h : serve e s = .next t) (es : List PortEvent) :
    serveAll (e :: es) s = serveAll es t := by
  simp [serveAll, h]

/-- A chunk delivers its bytes (R139, R140). -/
theorem serveAll_chunk {k0 k1 : Word} {msg : List Byte} {s : State} (h : Absorbed k0 k1 msg s) {c : Chunk} (hc : c.WellFormed) :
    ∃ t, serveAll c.events s = .next t ∧ Absorbed k0 k1 (msg ++ c.bytes) t := by
  cases c with
  | byte x =>
    refine ⟨absorbByte s x, serveAll_cons ?_ [], h.absorbByte x⟩
    exact (serve_command trivial s).trans (exec_absb h.err h.act x)
  | word data n =>
    have hd := h.write_mdata data
    refine ⟨_, (serveAll_cons (serve_wr_mdata h.err data) _).trans (serveAll_cons ?_ []), hd.absorbBytes (mdataBytes data n)⟩
    exact (serve_command hc _).trans (exec_absw hd.err hd.act n)

/-- Chunks deliver their bytes in order (R142). -/
theorem serveAll_chunks {k0 k1 : Word} {chunks : List Chunk} (hc : ∀ c ∈ chunks, c.WellFormed) {msg : List Byte} {s : State}
    (h : Absorbed k0 k1 msg s) :
    ∃ t, serveAll (chunks.flatMap Chunk.events) s = .next t ∧ Absorbed k0 k1 (msg ++ messageBytes chunks) t := by
  induction chunks generalizing msg s with
  | nil => exact ⟨s, rfl, by simpa [messageBytes] using h⟩
  | cons c rest ih =>
    obtain ⟨hwf, hrest⟩ := List.forall_mem_cons.mp hc
    obtain ⟨t, ht, hta⟩ := serveAll_chunk h hwf
    obtain ⟨u, hu, hua⟩ := ih hrest hta
    refine ⟨u, ?_, by simpa [messageBytes] using hua⟩
    rw [List.flatMap_cons, serveAll_append ht, hu]

/-- `INIT` and the chunks of a message leave R142's invariant, whatever state with `ERR = 0` they begin in. -/
theorem serveAll_init_chunks {chunks : List Chunk} (hc : ∀ c ∈ chunks, c.WellFormed) {s : State} (hok : s.err = false) :
    ∃ t, serveAll (command .init :: chunks.flatMap Chunk.events) s = .next t ∧
      Absorbed s.k0 s.k1 (messageBytes chunks) t := by
  rw [serveAll_cons ((serve_command trivial s).trans (exec_init hok))]
  exact serveAll_chunks hc (absorbed_startMessage hok)

/-- A whole message: what `FINAL` leaves is the finalized state of R142's invariant. -/
theorem serveAll_messageEvents {chunks : List Chunk} (hc : ∀ c ∈ chunks, c.WellFormed) {s : State} (hok : s.err = false) :
    ∃ t, Absorbed s.k0 s.k1 (messageBytes chunks) t ∧ serveAll (messageEvents chunks) s = .next (finalize t) := by
  obtain ⟨t, ht, hta⟩ := serveAll_init_chunks hc hok
  refine ⟨t, hta, ?_⟩
  rw [messageEvents, List.singleton_append, serveAll_append ht]
  exact serveAll_cons ((serve_command trivial t).trans (exec_final hta.err hta.act)) []

/-! ### `HASH` as a message in chunks (R101) -/

/-- The chunk that delivers a remainder: none when there is none. -/
def remainderChunks (rest : List Byte) : List Chunk :=
  if rest = [] then [] else [.word (le64 rest) rest.length]

theorem flatMap_events_remainderChunks (rest : List Byte) : (remainderChunks rest).flatMap Chunk.events = hashRemainder rest := by
  unfold remainderChunks hashRemainder
  split
  · rfl
  · exact List.flatMap_singleton _ _

theorem flatMap_bytes_remainderChunks {rest : List Byte} (h : rest.length ≤ 8) :
    (remainderChunks rest).flatMap Chunk.bytes = rest := by
  unfold remainderChunks
  split
  · rename_i hrest
    exact hrest.symm
  · exact (List.flatMap_singleton _ _).trans (mdataBytes_le64 h)

theorem remainderChunks_wellFormed {rest : List Byte} (h : rest.length ≤ 8) : ∀ c ∈ remainderChunks rest, c.WellFormed := by
  unfold remainderChunks
  split
  · simp
  · rename_i hne
    simpa using ⟨List.length_pos_of_ne_nil hne, h⟩

/-- The chunks of `HASH`: each full block, and the remainder when there is one. -/
def hashChunks (msg : List Byte) : List Chunk :=
  (fullBlocks msg).map (fun m => .word m 8) ++ remainderChunks (remainder msg)

theorem hashEvents_eq (msg : List Byte) : hashEvents msg = messageEvents (hashChunks msg) := by
  rw [messageEvents, hashChunks, List.flatMap_append, List.flatMap_map, flatMap_events_remainderChunks]
  simp [hashEvents, Chunk.events, remainder]

theorem hashChunks_wellFormed (msg : List Byte) : ∀ c ∈ hashChunks msg, c.WellFormed := by
  intro c hc
  obtain hfull | hrem := List.mem_append.mp hc
  · obtain ⟨m, -, rfl⟩ := List.mem_map.mp hfull
    exact ⟨by decide, by decide⟩
  · exact remainderChunks_wellFormed (by rw [remainder_length]; omega) c hrem

/-- The bytes of `n` blocks in a row. -/
theorem flatMap_range_take_drop (msg : List Byte) (n : Nat) :
    (List.range n).flatMap (fun j => (msg.drop (8 * j)).take 8) = msg.take (8 * n) := by
  induction n with
  | zero => simp
  | succ n ih => rw [List.range_succ, List.flatMap_append, ih, List.flatMap_singleton, Nat.mul_succ, List.take_add]

/-- The chunk of a full block holds the block's eight bytes. -/
theorem mdataBytes_fullBlock {msg : List Byte} {j : Nat} (hj : j < msg.length / 8) :
    mdataBytes (fullBlock msg j) 8 = (msg.drop (8 * j)).take 8 := by
  have hlen : ((msg.drop (8 * j)).take 8).length = 8 := by
    rw [List.length_take, List.length_drop]
    omega
  simpa [hlen, fullBlock] using mdataBytes_le64 hlen.le

/-- The chunks of `HASH` hold the message's bytes: those of the full blocks, then those of the remainder. -/
theorem messageBytes_hashChunks (msg : List Byte) : messageBytes (hashChunks msg) = msg := by
  have hfull : ((fullBlocks msg).map (fun m => Chunk.word m 8)).flatMap Chunk.bytes = msg.take (8 * (msg.length / 8)) := by
    rw [← flatMap_range_take_drop, fullBlocks, List.map_map, List.flatMap_map]
    exact List.flatMap_congr fun j hj => mdataBytes_fullBlock (List.mem_range.mp hj)
  rw [messageBytes, hashChunks, List.flatMap_append, hfull,
    flatMap_bytes_remainderChunks (by rw [remainder_length]; omega), remainder, List.take_append_drop]

/-- Settles O24: `HASH` is a message whose chunks hold the bytes of `msg`, so its `FINAL` computes their digest. -/
theorem hashPseudoOperationComputesSipHash24 : Obligations.HashPseudoOperationComputesSipHash24 := by
  intro msg s hok
  obtain ⟨t, ht, hserve⟩ := serveAll_messageEvents (hashChunks_wellFormed msg) hok
  rw [messageBytes_hashChunks] at ht
  exact ⟨finalize t, by rw [hashEvents_eq, hserve], ht.digest_finalize, rfl, ht.err⟩

end Sys2Proof.Safety

/-! The statements of spec/40_siphash.md: the compression round, the four commands one at a time, and the streamed message. Two rules
carry the block boundary of R136: bytes that leave room in the buffer join `TAIL` (`absorbBytes_of_room`), bytes that fill it exactly
compress one block (`absorbBytes_of_block`). -/

namespace Sys2Proof.Machine

open Sys2Proof.Safety

/-! ### The compression round (R131) -/

theorem rotl_eq_rotateLeft (a : Word) {b : Nat} (h : b < 64) : rotl a b = a.rotateLeft b := by
  rw [rotl, BitVec.rotateLeft_def, Nat.mod_eq_of_lt h]

/-- Rotating left and then right gives the word back. -/
theorem rotateRight_rotateLeft (x : Word) (r : Nat) : (x.rotateLeft r).rotateRight r = x := by
  ext i hi
  have hr := Nat.mod_lt r (show 0 < 64 by decide)
  rw [BitVec.getElem_rotateRight]
  split
  · simp [BitVec.getElem_rotateLeft]
  · simp [BitVec.getElem_rotateLeft, show i - (64 - r % 64) < r % 64 by omega,
      show 64 - r % 64 + (i - (64 - r % 64)) = i by omega]

/-- Rotating right and then left gives the word back. -/
theorem rotateLeft_rotateRight (x : Word) (r : Nat) : (x.rotateRight r).rotateLeft r = x := by
  ext i hi
  have hr := Nat.mod_lt r (show 0 < 64 by decide)
  rw [BitVec.getElem_rotateLeft]
  split
  · simp [BitVec.getElem_rotateRight]
  · simp [BitVec.getElem_rotateRight, show i - r % 64 < 64 - r % 64 by omega,
      show r % 64 + (i - r % 64) = i by omega]

/-- `SipRound` with R131's assignments composed and core's rotation. -/
theorem sipRound_eq (v : SipWords) :
    sipRound v =
      let a0 := v.v0 + v.v1
      let a2 := v.v2 + v.v3
      let a1 := v.v1.rotateLeft 13 ^^^ a0
      let a3 := v.v3.rotateLeft 16 ^^^ a2
      let b0 := a0.rotateLeft 32 + a3
      let b2 := a2 + a1
      ⟨b0, a1.rotateLeft 17 ^^^ b2, b2.rotateLeft 32, a3.rotateLeft 21 ^^^ b0⟩ := by
  simp (disch := decide) only [sipRound, rotl_eq_rotateLeft]

/-- The fourteen assignments of R131 undone, last to first. -/
def sipUnround (v : SipWords) : SipWords :=
  let b0 := v.v0
  let b2 := v.v2.rotateRight 32
  let a3 := (v.v3 ^^^ b0).rotateRight 21
  let a1 := (v.v1 ^^^ b2).rotateRight 17
  let a0 := (b0 - a3).rotateRight 32
  let a2 := b2 - a1
  let v1 := (a1 ^^^ a0).rotateRight 13
  let v3 := (a3 ^^^ a2).rotateRight 16
  ⟨a0 - v1, v1, a2 - v3, v3⟩

theorem sipUnround_sipRound : Function.LeftInverse sipUnround sipRound := by
  intro v
  simp [sipRound_eq, sipUnround, rotateRight_rotateLeft]

theorem sipRound_sipUnround : Function.RightInverse sipUnround sipRound := by
  intro v
  simp [sipRound_eq, sipUnround, rotateLeft_rotateRight]

/-! ### Words with the opcode of `INIT` or `ABSB` (R97) -/

theorem extractLsb'_8_56_eq_zero_iff {w : Word} : w.extractLsb' 8 56 = 0 ↔ reservedHigh w = 0 ∧ argField w = 0 := by
  constructor
  · intro h
    have hhigh : (w.extractLsb' 8 56).extractLsb' 8 48 = reservedHigh w := extractLsb'_extractLsb' w 8 8 (by decide)
    have harg : (w.extractLsb' 8 56).extractLsb' 0 8 = argField w := extractLsb'_extractLsb' w 8 0 (by decide)
    rw [← hhigh, ← harg, h]
    exact ⟨rfl, rfl⟩
  · rintro ⟨hhigh, harg⟩
    have happend : reservedHigh w ++ argField w = w.extractLsb' 8 56 :=
      BitVec.extractLsb'_append_extractLsb'_eq_extractLsb' rfl
    rw [← happend, hhigh, harg]
    rfl

/-- `INIT`'s opcode is no other command's (R93). -/
theorem eq_init_of_decode {w : Word} {i : Instr} (hop : opField w = 0x01) (h : decode w = .instr i) : i = .init := by
  obtain ⟨-, hlegal⟩ := legalAs_of_decode h
  cases i with
  | init => rfl
  | absb | absw | final | encode | decode | gen7 | rst => simp [LegalAs, hop] at hlegal

theorem decode_of_absb_opcode {w : Word} (hhigh : reservedHigh w = 0) (hop : opField w = 0x02) :
    decode w = .instr (.absb (argField w)) :=
  decode_of_legalAs hhigh ⟨hop, rfl⟩

theorem decode_of_reservedHigh {w : Word} (h : reservedHigh w ≠ 0) : decode w = .illegal .reservedHigh :=
  if_pos h

/-! ### Bytes absorbed together (R136, R140) -/

/-- One more byte goes above the ones already packed (R13). -/
theorem le64_concat (bytes : List Byte) (x : Byte) :
    le64 (bytes ++ [x]) = le64 bytes ||| (x.setWidth 64 <<< (8 * bytes.length)) := by
  simp [le64_append, le64_cons]

/-- Bytes that leave room in the buffer go above the pending ones, in order. -/
theorem absorbBytes_of_room {s : State} {bytes : List Byte} (h : s.nb.toNat + bytes.length < 8) :
    absorbBytes s bytes = { s with
      tail := s.tail ||| (le64 bytes <<< (8 * s.nb.toNat)), nb := BitVec.ofNat 3 (s.nb.toNat + bytes.length),
      len := s.len + BitVec.ofNat 8 bytes.length } := by
  induction bytes generalizing s with
  | nil => simp
  | cons x rest ih =>
    rw [List.length_cons] at h
    have hroom : s.nb ≠ 7 := by bv_omega
    have hnb : (s.nb + 1).toNat = s.nb.toNat + 1 := by bv_omega
    have hlen : s.len + 1 + BitVec.ofNat 8 rest.length = s.len + BitVec.ofNat 8 (rest.length + 1) := by
      rw [BitVec.add_assoc, Nat.add_comm, BitVec.ofNat_add]
      rfl
    have htail : s.tail ||| (x.setWidth 64 <<< (8 * s.nb.toNat)) ||| (le64 rest <<< (8 * (s.nb.toNat + 1))) =
        s.tail ||| (le64 (x :: rest) <<< (8 * s.nb.toNat)) := by
      rw [le64_cons, BitVec.shiftLeft_or_distrib, ← BitVec.shiftLeft_add, BitVec.or_assoc, Nat.mul_succ, Nat.add_comm 8]
    rw [absorbBytes_cons, absorbByte_of_room hroom, ih (by rw [hnb]; omega)]
    simp only [hnb, hlen, htail, List.length_cons, Nat.add_assoc, Nat.add_comm 1]

/-- Bytes that fill the buffer exactly compress one block, of the pending bytes and theirs. -/
theorem absorbBytes_of_block {s : State} {bytes : List Byte} (h : s.nb.toNat + bytes.length = 8) :
    absorbBytes s bytes = { s with
      v := compress (s.tail ||| (le64 bytes <<< (8 * s.nb.toNat))) s.v, tail := 0, nb := 0,
      len := s.len + BitVec.ofNat 8 bytes.length } := by
  obtain rfl | ⟨front, x, rfl⟩ := bytes.eq_nil_or_concat'
  · have := s.nb.isLt
    rw [List.length_nil] at h
    omega
  rw [List.length_append, List.length_singleton] at h
  have hlen : s.len + BitVec.ofNat 8 front.length + 1 = s.len + BitVec.ofNat 8 (front ++ [x]).length := by
    rw [BitVec.add_assoc, List.length_append, BitVec.ofNat_add]
    rfl
  have htail : s.tail ||| (le64 front <<< (8 * s.nb.toNat)) ||| (x.setWidth 64 <<< (8 * 7)) =
      s.tail ||| (le64 (front ++ [x]) <<< (8 * s.nb.toNat)) := by
    rw [le64_concat, BitVec.shiftLeft_or_distrib, ← BitVec.shiftLeft_add, BitVec.or_assoc,
      show 8 * front.length + 8 * s.nb.toNat = 8 * 7 by omega]
  have hfull : BitVec.ofNat 3 (s.nb.toNat + front.length) = 7 := by rw [show s.nb.toNat + front.length = 7 by omega]; rfl
  rw [absorbBytes_append, absorbBytes_of_room (bytes := front) (by omega), absorbBytes_cons, absorbBytes_nil,
    absorbByte_of_full hfull]
  simp only [hfull, hlen]
  rw [← htail]
  rfl

/-! ### The bytes of `MDATA` (R26, R140) -/

/-- The `n` low-order bytes of `MDATA` packed again are its low `8n` bits. -/
theorem le64_mdataBytes (m : Word) (n : Nat) : le64 (mdataBytes m n) = (m.extractLsb' 0 (8 * n)).setWidth 64 := by
  induction n with
  | zero => simp [mdataBytes]
  | succ n ih =>
    rw [mdataBytes_succ, le64_concat, ih, mdataBytes_length, mdataByte]
    ext j hj
    by_cases h : j < 8 * n
    · simp [hj, h, show j < 8 * (n + 1) by omega]
    · simp [hj, h, show 8 * n + (j - 8 * n) = j by omega, show j - 8 * n < 8 ↔ j < 8 * (n + 1) by omega]

/-- The bytes of `MDATA` after the first `a` are those of `MDATA` shifted down. -/
theorem mdataBytes_add (m : Word) (a b : Nat) : mdataBytes m (a + b) = mdataBytes m a ++ mdataBytes (m >>> (8 * a)) b := by
  have hbyte (i : Nat) : mdataByte m (a + i) = mdataByte (m >>> (8 * a)) i := by
    ext j hj
    simp [mdataByte, Nat.mul_add, Nat.add_assoc]
  rw [mdataBytes, List.range_add, List.map_append, List.map_map]
  simp only [Function.comp_def, hbyte]
  rfl

/-- Bytes that fill the buffer exactly: what of `MDATA` is shifted out does not count. -/
theorem le64_mdataBytes_shiftLeft (m : Word) {k n : Nat} (h : n + k = 8) :
    le64 (mdataBytes m k) <<< (8 * n) = m <<< (8 * n) := by
  rw [le64_mdataBytes]
  ext j hj
  by_cases hlow : j < 8 * n
  · simp [hlow]
  · simp [hlow, show j - 8 * n < 8 * k by omega, show j - 8 * n < 64 by omega]

/-- The bytes after the first `k` of the `k + r` low-order ones. -/
theorem le64_mdataBytes_shiftRight (m : Word) {k r : Nat} (h : k + r ≤ 8) :
    le64 (mdataBytes (m >>> (8 * k)) r) = (m.extractLsb' 0 (8 * (k + r))).setWidth 64 >>> (8 * k) := by
  rw [le64_mdataBytes]
  ext j hj
  by_cases hr : j < 8 * r
  · simp [hj, hr, show 8 * k + j < 64 by omega, show 8 * k + j < 8 * (k + r) by omega]
  · simp [hj, hr, show ¬ 8 * k + j < 8 * (k + r) by omega]

/-! ### The key registers (R143) -/

/-- The same block with other key registers. -/
def withKey (a b : Word) (s : State) : State := { s with k0 := a, k1 := b }

theorem absorbByte_withKey (a b : Word) (s : State) (x : Byte) :
    absorbByte (withKey a b s) x = withKey a b (absorbByte s x) := by
  by_cases h : s.nb = 7
  · rw [absorbByte_of_full h, absorbByte_of_full (s := withKey a b s) h]; rfl
  · rw [absorbByte_of_room h, absorbByte_of_room (s := withKey a b s) h]; rfl

theorem absorbBytes_withKey (a b : Word) (s : State) (bytes : List Byte) :
    absorbBytes (withKey a b s) bytes = withKey a b (absorbBytes s bytes) := by
  induction bytes generalizing s with
  | nil => rfl
  | cons x rest ih => rw [absorbBytes_cons, absorbBytes_cons, absorbByte_withKey, ih]

/-- A command that needs a message records `SEQ` outside one (R213). -/
theorem exec_of_idle {i : Instr} (hi : (∃ x, i = .absb x) ∨ (∃ n, i = .absw n) ∨ i = .final) {s : State}
    (hok : s.err = false) (hidle : s.act = false) : exec i s = .next (raiseFault .seq (commandInfo i) s) := by
  obtain ⟨x, rfl⟩ | ⟨n, rfl⟩ | rfl := hi
  · exact (acceptCommand_of_ok hok _).trans (inMessage_of_idle _ hidle _)
  · exact (acceptCommand_of_ok hok _).trans (inMessage_of_idle _ hidle _)
  · exact (acceptCommand_of_ok hok _).trans (inMessage_of_idle _ hidle _)

/-- Apart from `INIT`, `ENCODE`, `DECODE` and `RST`, what a command does is the same under any key. -/
theorem exec_withKey {i : Instr} {s t : State} {a b : Word} (hinit : i ≠ .init) (hencode : i ≠ .encode)
    (hdecode : i ≠ .decode) (hrst : i ≠ .rst) (h : exec i s = .next t) : exec i (withKey a b s) = .next (withKey a b t) := by
  obtain ⟨rfl, -⟩ | ⟨-, herr, rfl⟩ | ⟨hok, h⟩ := exec_cases h
  · exact absurd rfl hrst
  · exact exec_of_err (s := withKey a b t) herr hrst
  · have hok' : (withKey a b s).err = false := hok
    obtain ⟨rfl, -⟩ | ⟨x, rfl, hact, rfl⟩ | ⟨n, rfl, hact, rfl⟩ | ⟨rfl, hact, rfl⟩ | ⟨hi, hidle, rfl⟩ | ⟨rfl, -⟩ |
      ⟨rfl, -⟩ | ⟨rfl, rfl⟩ := h
    · exact absurd rfl hinit
    · rw [exec_absb hok' hact, absorbByte_withKey]
    · rw [exec_absw hok' hact, ← absorbBytes_withKey]; rfl
    · exact exec_final hok' hact
    · rw [exec_of_idle hi hok' hidle, raiseFault_of_ok _ _ hok, raiseFault_of_ok _ _ hok']; rfl
    · exact absurd rfl hencode
    · exact absurd rfl hdecode
    · exact acceptCommand_of_ok hok' _

end Sys2Proof.Machine

namespace Sys2Proof.Safety

open Sys2Proof.Machine

theorem execAll_cons {i : Instr} {s t : State} (h : exec i s = .next t) (is : List Instr) :
    execAll (i :: is) s = execAll is t := by
  simp [execAll, h]

/-- One `ABSB` for each byte absorbs the bytes (R139). -/
theorem execAll_absb {s : State} (hok : s.err = false) (hact : s.act = true) (bytes : List Byte) :
    execAll (bytes.map .absb) s = .next (absorbBytes s bytes) := by
  induction bytes generalizing s with
  | nil => rfl
  | cons x rest ih =>
    rw [List.map_cons, execAll_cons (exec_absb hok hact x), ih (by simpa using hok) (by simpa using hact), absorbBytes_cons]

/-- Settles O15: R131's assignments composed, and undone from last to first. -/
theorem sipRoundIsTheFourteenAssignmentsAndBijective : Obligations.SipRoundIsTheFourteenAssignmentsAndBijective :=
  ⟨sipRound_eq, Function.bijective_iff_has_inverse.mpr ⟨sipUnround, sipUnround_sipRound, sipRound_sipUnround⟩, by decide,
    by decide⟩

/-- Settles O17: the writes of R138, and the decoder on a word with `INIT`'s opcode. -/
theorem initStartsAMessage : Obligations.InitStartsAMessage := by
  refine ⟨fun _ => exec_init, fun w hop => ?_⟩
  have hiff : decode w = .instr .init ↔ w.extractLsb' 8 56 = 0 := by
    rw [decode_eq_instr_iff, extractLsb'_8_56_eq_zero_iff]
    exact and_congr_right fun _ => and_iff_right hop
  refine ⟨hiff, fun hne => ?_⟩
  cases h : decode w with
  | instr i =>
    obtain rfl := eq_init_of_decode hop h
    exact absurd (hiff.mp h) hne
  | illegal why => exact ⟨why, rfl⟩

/-- Settles O18, by the two cases of `NB`. -/
theorem absbAbsorbsItsByte : Obligations.AbsbAbsorbsItsByte := fun _ x hok hact =>
  ⟨fun hfull => (exec_absb hok hact x).trans (congrArg _ (absorbByte_of_full hfull x)),
    fun hroom => (exec_absb hok hact x).trans (congrArg _ (absorbByte_of_room hroom x))⟩

/-- Settles O19: the four steps of R132 are those of `compress`. -/
theorem compressIsTwoRoundsBetweenTwoXors : Obligations.CompressIsTwoRoundsBetweenTwoXors :=
  fun _ _ => rfl

/-- Settles O20: both sides absorb the same bytes. -/
theorem abswAbsorbsTheLowBytesOfMdataInOrder : Obligations.AbswAbsorbsTheLowBytesOfMdataInOrder := by
  intro s n _ _ hok hact
  refine ⟨_, exec_absw hok hact n, ?_⟩
  rw [← execAll_absb hok hact, mdataBytes, List.map_map]
  rfl

/-- Settles O21: the bytes leave room, or those up to the boundary fill a block and the rest find an empty buffer. -/
theorem abswCompressesAtMostOneBlock : Obligations.AbswCompressesAtMostOneBlock := by
  intro s n _ hn hok hact
  refine ⟨fun hroom => ?_, fun hblock => ?_⟩
  · rw [exec_absw hok hact, absorbBytes_of_room (by rwa [mdataBytes_length]), mdataBytes_length, le64_mdataBytes]
  · obtain ⟨k, r, hk, rfl⟩ : ∃ k r, s.nb.toNat + k = 8 ∧ n = k + r :=
      ⟨8 - s.nb.toNat, s.nb.toNat + n - 8, by omega, by omega⟩
    have hfirst : 8 - s.nb.toNat = k := by omega
    have hrest : s.nb.toNat + (k + r) - 8 = r := by omega
    have hlen : s.len + BitVec.ofNat 8 k + BitVec.ofNat 8 r = s.len + BitVec.ofNat 8 (k + r) := by
      rw [BitVec.add_assoc, ← BitVec.ofNat_add]
    rw [exec_absw hok hact, mdataBytes_add, absorbBytes_append,
      absorbBytes_of_block (bytes := mdataBytes s.mdata k) (by rwa [mdataBytes_length]),
      absorbBytes_of_room (by simp; omega)]
    simp [le64_mdataBytes_shiftLeft s.mdata hk, le64_mdataBytes_shiftRight s.mdata hn, hfirst, hrest, hlen]

/-- Settles O22: `Finalize()` as R137 writes it. -/
theorem finalProducesTheDigest : Obligations.FinalProducesTheDigest :=
  fun _ => exec_final

/-- Settles O23: R142's invariant before the `FINAL`, and what `FINAL` makes of it. -/
theorem streamingEqualsSipHash24 : Obligations.StreamingEqualsSipHash24 := by
  intro chunks s hc hok msg
  have hlen : BitVec.ofNat 8 msg.length = BitVec.ofNat 8 (msg.length % 256) := BitVec.eq_of_toNat_eq (by simp)
  obtain ⟨u, hu, hua⟩ := serveAll_init_chunks hc hok
  obtain ⟨t, hta, ht⟩ := serveAll_messageEvents hc hok
  exact ⟨⟨u, hu, hua.v, hua.nb, hua.tail, hua.len.trans hlen, hua.act⟩,
    finalize t, ht, hta.digest_finalize, rfl, rfl, rfl, rfl, hta.len.trans hlen, hta.err⟩

/-! ### The key and the frame (R138 to R143) -/

/-- Settles O25: the other commands do the same under any key, and `INIT` writes `initWords` of the registers. -/
theorem keyIsSampledAtInitOnly : Obligations.KeyIsSampledAtInitOnly := by
  refine ⟨fun i s t a b hinit hencode hdecode hrst => exec_withKey hinit hencode hdecode hrst, fun s t a b hok h => ?_⟩
  obtain rfl := Host.Outcome.next.inj ((exec_init (s := withKey a b s) hok).symm.trans h)
  rfl

/-- Settles O26, by the cases of `exec`. -/
theorem streamingCommandsFrame : Obligations.StreamingCommandsFrame := by
  intro i s t hi h
  obtain ⟨rfl, -⟩ | ⟨-, herr, rfl⟩ | ⟨hok, h⟩ := exec_cases h
  · simp at hi
  · simp
  · obtain ⟨rfl, rfl⟩ | ⟨x, rfl, hact, rfl⟩ | ⟨n, rfl, hact, rfl⟩ | ⟨rfl, hact, rfl⟩ | ⟨hi, hidle, rfl⟩ | ⟨rfl, -⟩ |
      ⟨rfl, -⟩ | ⟨rfl, -⟩ := h
    · simp
    · simp
    · simp
    · simp
    · have hne : i ≠ .init := by rintro rfl; simp at hi
      simp [hok, hidle, hne]
    · simp at hi
    · simp at hi
    · simp at hi

/-! ### `ABSB` and its word (R139) -/

/-- The write of a word with `ABSB`'s opcode (R97). -/
theorem writePort_cmd_absb {s : State} {w : Word} (hok : s.err = false) (hop : opField w = 0x02) :
    (reservedHigh w = 0 → s.act = true → writePort 0x18 w s = exec (.absb (argField w)) s) ∧
    (reservedHigh w = 0 → s.act = false →
      writePort 0x18 w s = .next { s with err := true, errCode := 2, errInfo := lowField w }) ∧
    (reservedHigh w ≠ 0 → writePort 0x18 w s = .next { s with err := true, errCode := 1, errInfo := lowField w }) := by
  refine ⟨fun hhigh _ => writePort_cmd_of_instr (decode_of_absb_opcode hhigh hop) s, fun hhigh hidle => ?_, fun hhigh => ?_⟩
  · have hdec := decode_of_absb_opcode hhigh hop
    obtain ⟨-, hword⟩ := encodeOfDecodeIsTheWord w _ hdec
    rw [writePort_cmd_of_instr hdec, exec_of_idle (.inl ⟨_, rfl⟩) hok hidle, commandInfo, hword, raiseFault_of_ok _ _ hok]
    rfl
  · have hreg : writePort 0x18 w s = runCommand w s := writePort_of_reg hok .cmd w
    rw [hreg, runCommand_of_illegal (decode_of_reservedHigh hhigh), raiseFault_of_ok _ _ hok]
    rfl

/-- `STATUS` after the first byte of a message (R139's example). -/
theorem statusWord_absorbByte_startMessage {s : State} (x : Byte) (hok : s.err = false) (hov : s.ov = false)
    (hcode : s.errCode = 0) (hinfo : s.errInfo = 0) : statusWord (absorbByte (startMessage s) x) = 0x10102 := by
  simp [statusWord, absorbByte_nb, hok, hov, hcode, hinfo, flagBit]

/-- Settles O57: the two cases of `NB`, the word, the three answers to it, and the example. -/
theorem absbCompletesInAMessage : Obligations.AbsbCompletesInAMessage := by
  refine ⟨fun s x hok hact => ⟨_, exec_absb hok hact x, ?_, fun hroom => ?_, fun hfull => ?_⟩,
    fun x => decodeOfEncodeIsTheCommand (.absb x) trivial, fun s w hok hop => writePort_cmd_absb hok hop,
    fun s hok => ⟨_, absorbByte (startMessage s) 0x61, exec_init hok, exec_absb (s := startMessage s) hok rfl _, ?_⟩⟩
  · by_cases hfull : s.nb = 7
    · rw [absorbByte_of_full hfull, hfull]; rfl
    · rw [absorbByte_of_room hfull]
  · simp [absorbByte_of_room hroom]
  · simp [absorbByte_of_full hfull, hfull]
  · have hroom : (startMessage s).nb ≠ 7 := by simp
    refine ⟨?_, ?_, ?_, ?_, statusWord_absorbByte_startMessage 0x61 hok⟩ <;> simp [absorbByte_of_room hroom]

/-- Settles O58: eight bytes from an empty buffer fill a block. -/
theorem eightAbsbCompressOneBlock : Obligations.EightAbsbCompressOneBlock := by
  intro s bytes hlen hok hact hnb htail
  rw [execAll_absb hok hact, absorbBytes_of_block (by simp [hnb, hlen])]
  simp [hnb, hlen, htail]

end Sys2Proof.Safety

/-! The statements of spec/41_facade.md. They rest on one reading of `stamp` (R174, R184): it writes a timestamp, a version and a
variant in their places and keeps the payload, of which alone the facade message is made (R173). So a second transform finds the
mask of the first, and `ENCODE` and `DECODE` undo each other up to the version and the variant. -/

namespace Sys2Proof.Machine

open Sys2Proof.Safety

/-! ### Bytes 6 and 8 of an identifier (R170) -/

theorem and_low_four (b : Byte) : b &&& 0x0F = (b.extractLsb' 0 4).setWidth 8 := by
  ext j hj
  interval_cases j <;> simp

theorem and_low_six (b : Byte) : b &&& 0x3F = (b.extractLsb' 0 6).setWidth 8 := by
  ext j hj
  interval_cases j <;> simp

/-- A version written above the low four bits of a byte. -/
theorem or_version_eq_append (b : Byte) (ver : BitVec 4) :
    (b &&& 0x0F#8) ||| (ver.setWidth 8 <<< 4) = ver ++ b.extractLsb' 0 4 := by
  apply BitVec.eq_of_getLsbD_eq
  intro j hj
  rw [BitVec.getLsbD_append]
  interval_cases j <;> simp

/-- The variant `10` written above the low six bits of a byte. -/
theorem or_variant_eq_append (b : Byte) : (b &&& 0x3F#8) ||| 0x80#8 = 0b10#2 ++ b.extractLsb' 0 6 := by
  apply BitVec.eq_of_getLsbD_eq
  intro j hj
  rw [BitVec.getLsbD_append]
  interval_cases j <;> simp

theorem version_append_low (id : Ident) : version id ++ id[6].extractLsb' 0 4 = id[6] :=
  BitVec.extractLsb'_append_extractLsb'

theorem variant_append_low (id : Ident) : variant id ++ id[8].extractLsb' 0 6 = id[8] :=
  BitVec.extractLsb'_append_extractLsb'

/-! ### The facade message (R171, R173) -/

theorem facadeMsg_eq (id : Ident) :
    facadeMsg id = [(id[6].extractLsb' 0 4).setWidth 8, id[7], (id[8].extractLsb' 0 6).setWidth 8, id[9], id[10], id[11], id[12],
      id[13], id[14]] := by
  rw [facadeMsg, and_low_four, and_low_six]

theorem mask48_congr {a b : Ident} (h : facadeMsg a = facadeMsg b) (k0 k1 : Word) : mask48 a k0 k1 = mask48 b k0 k1 := by
  rw [mask48, mask48, h]

/-- Settles O27: the message is made of the payload's bits alone, and the mask of the message. -/
theorem facadeMessageIgnoresTimestampAndMetadata : Obligations.FacadeMessageIgnoresTimestampAndMetadata := by
  intro a b k0 k1 h7 h9 h10 h11 h12 h13 h14 h6 h8
  have hmsg : facadeMsg a = facadeMsg b := by rw [facadeMsg_eq, facadeMsg_eq, h6, h7, h8, h9, h10, h11, h12, h13, h14]
  exact ⟨hmsg, mask48_congr hmsg k0 k1⟩

/-! ### What `stamp` writes and keeps (R174 steps 3 and 4, R184) -/

section

variable (id : Ident) (ts : BitVec 48) (ver : BitVec 4)

theorem stamp_eq : stamp id ts ver =
    #v[be48Byte ts 0, be48Byte ts 1, be48Byte ts 2, be48Byte ts 3, be48Byte ts 4, be48Byte ts 5, ver ++ id[6].extractLsb' 0 4,
      id[7], 0b10#2 ++ id[8].extractLsb' 0 6, id[9], id[10], id[11], id[12], id[13], id[14], id[15]] := by
  rw [← or_version_eq_append, ← or_variant_eq_append]
  rfl

@[simp] theorem version_stamp : version (stamp id ts ver) = ver := by
  rw [stamp_eq]
  exact BitVec.extractLsb'_append_eq_left

@[simp] theorem variant_stamp : variant (stamp id ts ver) = 0b10 := by
  rw [stamp_eq]
  exact BitVec.extractLsb'_append_eq_left

@[simp] theorem stamp_six_low : (stamp id ts ver)[6].extractLsb' 0 4 = id[6].extractLsb' 0 4 := by
  rw [stamp_eq]
  exact BitVec.extractLsb'_append_eq_right

@[simp] theorem stamp_eight_low : (stamp id ts ver)[8].extractLsb' 0 6 = id[8].extractLsb' 0 6 := by
  rw [stamp_eq]
  exact BitVec.extractLsb'_append_eq_right

/-- The payload is kept, and so the facade message (R173). -/
@[simp] theorem facadeMsg_stamp : facadeMsg (stamp id ts ver) = facadeMsg id := by
  rw [facadeMsg_eq, facadeMsg_eq, stamp_six_low, stamp_eight_low]
  rfl

/-- A second stamp replaces all that the first wrote. -/
theorem stamp_stamp (ts' : BitVec 48) (ver' : BitVec 4) : stamp (stamp id ts ver) ts' ver' = stamp id ts' ver' := by
  rw [stamp_eq, stamp_six_low, stamp_eight_low, stamp_eq id ts' ver']
  rfl

/-- Two stamps that differ in the version differ in byte 6 only. -/
theorem stamp_getElem_of_ne_six (ver' : BitVec 4) {k : Fin 16} (h6 : k ≠ 6) : (stamp id ts ver)[k] = (stamp id ts ver')[k] := by
  fin_cases k
  on_goal 7 => exact absurd rfl h6
  all_goals rfl

/-- With the identifier's own timestamp only bytes 6 and 8 can change. -/
theorem stamp_timestamp_getElem {k : Fin 16} (h6 : k ≠ 6) (h8 : k ≠ 8) : (stamp id (timestamp id) ver)[k] = id[k] := by
  obtain ⟨h0, h1, h2, h3, h4, h5⟩ := be48Byte_be48 id[0] id[1] id[2] id[3] id[4] id[5]
  fin_cases k
  · exact h0
  · exact h1
  · exact h2
  · exact h3
  · exact h4
  · exact h5
  · exact absurd rfl h6
  · rfl
  · exact absurd rfl h8
  all_goals rfl

/-- With its own timestamp an identifier is stamped as itself exactly when it had the version and the variant written. -/
theorem stamp_timestamp_eq_self_iff : stamp id (timestamp id) ver = id ↔ version id = ver ∧ variant id = 0b10 := by
  constructor
  · intro h
    rw [← h]
    exact ⟨version_stamp _ _ _, variant_stamp _ _ _⟩
  · rintro ⟨rfl, (hvar : variant id = 0b10#2)⟩
    apply ident_ext
    intro k
    by_cases h6 : k = 6
    · subst h6
      rw [stamp_eq]
      exact version_append_low id
    by_cases h8 : k = 8
    · subst h8
      rw [stamp_eq, ← hvar]
      exact variant_append_low id
    exact stamp_timestamp_getElem id _ h6 h8

end

/-! ### The transform and its round trip (R174, R177, R178) -/

/-- The second transform has the first one's mask, and so restores the timestamp (R177). -/
theorem transform_transform (id : Ident) (k0 k1 : Word) (ver ver' : BitVec 4) :
    transform (transform id k0 k1 ver) k0 k1 ver' = stamp id (timestamp id) ver' := by
  have hmask : mask48 (transform id k0 k1 ver) k0 k1 = mask48 id k0 k1 := mask48_congr (facadeMsg_stamp _ _ _) k0 k1
  have hts : timestamp (transform id k0 k1 ver) = timestamp id ^^^ mask48 id k0 k1 := timestamp_stamp _ _ _
  rw [transform, hmask, hts, BitVec.xor_assoc, BitVec.xor_self, BitVec.xor_zero]
  exact stamp_stamp _ _ _ _ _

/-- Settles O28: the transform ends in a stamp. -/
theorem transformForcesVersionAndVariant : Obligations.TransformForcesVersionAndVariant := fun _ _ _ =>
  ⟨version_stamp _ _ _, variant_stamp _ _ _, version_stamp _ _ _, variant_stamp _ _ _⟩

/-- Settles O30: both orders of the two transforms stamp the identifier with its own timestamp. -/
theorem roundTripRestoresTimestampAndPayload : Obligations.RoundTripRestoresTimestampAndPayload := by
  intro id k0 k1 r
  have hr : r = stamp id (timestamp id) 7 := transform_transform id k0 k1 4 7
  rw [hr, transform_transform]
  exact ⟨fun k => stamp_timestamp_getElem id 7, stamp_six_low _ _ _, stamp_eight_low _ _ _, version_stamp _ _ _,
    variant_stamp _ _ _, stamp_timestamp_eq_self_iff id 7, stamp_timestamp_eq_self_iff id 4⟩

/-! ### The word form (R181, R184) -/

/-- A word is its bits 63:16, its nibble 15:12 and its bits 11:0, the fields of an identifier's `HI` register (R104). -/
theorem eq_of_hi_fields {w v : Word} (hts : w.extractLsb' 16 48 = v.extractLsb' 16 48)
    (hver : w.extractLsb' 12 4 = v.extractLsb' 12 4) (hpa : w.extractLsb' 0 12 = v.extractLsb' 0 12) : w = v := by
  have happend (x : Word) : x.extractLsb' 16 48 ++ (x.extractLsb' 12 4 ++ x.extractLsb' 0 12) = x := by
    rw [BitVec.extractLsb'_append_extractLsb'_eq_extractLsb' (show 12 = 0 + 12 from rfl)]
    exact BitVec.extractLsb'_append_extractLsb'
  rw [← happend w, hts, hver, hpa, happend]

/-- Two words are equal when their eight bytes are. -/
theorem eq_of_be64Byte {w v : Word} (h : ∀ k < 8, be64Byte w k = be64Byte v k) : w = v := by
  rw [← be64_be64Byte w, h 0 (by decide), h 1 (by decide), h 2 (by decide), h 3 (by decide), h 4 (by decide), h 5 (by decide),
    h 6 (by decide), h 7 (by decide), be64_be64Byte]

/-- `pa = HI[11:0]` is the low nibble of byte 6 above byte 7 (R104). -/
theorem extractLsb'_idHi_payload (id : Ident) : (idHi id).extractLsb' 0 12 = id[6].extractLsb' 0 4 ++ id[7] := by
  have hnibble : (idHi id).extractLsb' 8 4 = id[6].extractLsb' 0 4 := extractLsb'_idHi id 6 0 4 (by decide)
  have hbyte : (idHi id).extractLsb' 0 8 = id[7] := be64Byte_idHi id 7
  rw [← hnibble, ← hbyte, BitVec.extractLsb'_append_extractLsb'_eq_extractLsb' (show 8 = 0 + 8 from rfl)]

/-- `HI` of a stamped identifier: the three fields in their places. -/
theorem idHi_stamp (id : Ident) (ts : BitVec 48) (ver : BitVec 4) :
    idHi (stamp id ts ver) =
      (ts.setWidth 64 <<< 16) ||| (ver.setWidth 64 <<< 12) ||| ((idHi id).extractLsb' 0 12).setWidth 64 := by
  rw [← BitVec.shiftLeft_zero (BitVec.setWidth 64 ((idHi id).extractLsb' 0 12))]
  have hver : (idHi (stamp id ts ver)).extractLsb' 12 4 = ver :=
    (extractLsb'_idHi _ 6 4 4 (by decide)).trans (version_stamp id ts ver)
  have hpa : (idHi (stamp id ts ver)).extractLsb' 0 12 = (idHi id).extractLsb' 0 12 := by
    rw [extractLsb'_idHi_payload, extractLsb'_idHi_payload, stamp_six_low]
    rfl
  apply eq_of_hi_fields <;>
    simp (disch := decide) only [extractLsb'_idHi_timestamp, timestamp_stamp, hver, hpa, BitVec.extractLsb'_or,
      extractLsb'_shiftLeft_same, extractLsb'_shiftLeft_of_disjoint, BitVec.or_zero, BitVec.zero_or]

/-- The transform of `HI` in word form writes the masked timestamp and the version (R181). -/
theorem idHi_masked (hi : Word) (m : BitVec 48) (ver : BitVec 4) :
    (hi ^^^ (m.setWidth 64 <<< 16)) &&& 0xFFFFFFFFFFFF0FFF#64 ||| (ver.setWidth 64 <<< 12) =
      ((hi.extractLsb' 16 48 ^^^ m).setWidth 64 <<< 16) ||| (ver.setWidth 64 <<< 12) ||| (hi.extractLsb' 0 12).setWidth 64 := by
  rw [← BitVec.shiftLeft_zero (BitVec.setWidth 64 (hi.extractLsb' 0 12))]
  have hts : BitVec.extractLsb' 16 48 0xFFFFFFFFFFFF0FFF#64 = BitVec.allOnes 48 := by decide
  have hver : BitVec.extractLsb' 12 4 0xFFFFFFFFFFFF0FFF#64 = 0#4 := by decide
  have hpa : BitVec.extractLsb' 0 12 0xFFFFFFFFFFFF0FFF#64 = BitVec.allOnes 12 := by decide
  apply eq_of_hi_fields <;>
    simp (disch := decide) only [BitVec.extractLsb'_or, BitVec.extractLsb'_and, BitVec.extractLsb'_xor,
      extractLsb'_shiftLeft_same, extractLsb'_shiftLeft_of_disjoint, hts, hver, hpa,
      BitVec.and_allOnes, BitVec.and_zero, BitVec.or_zero, BitVec.zero_or, BitVec.xor_zero]

/-- `LO` of a stamped identifier: the variant is forced and the payload kept. -/
theorem idLo_stamp (id : Ident) (ts : BitVec 48) (ver : BitVec 4) :
    idLo (stamp id ts ver) = idLo id &&& 0x3FFFFFFFFFFFFFFF ||| 0x8000000000000000 := by
  apply eq_of_be64Byte
  intro k hk
  have hbyte : be64Byte (idLo id &&& 0x3FFFFFFFFFFFFFFF ||| 0x8000000000000000) k =
      be64Byte (idLo id) k &&& be64Byte 0x3FFFFFFFFFFFFFFF k ||| be64Byte 0x8000000000000000 k := by
    rw [be64Byte, BitVec.extractLsb'_or, BitVec.extractLsb'_and]
    rfl
  rw [hbyte, be64Byte_idLo _ ⟨k, hk⟩, be64Byte_idLo _ ⟨k, hk⟩]
  interval_cases k
  · rfl
  all_goals exact (BitVec.or_zero.trans BitVec.and_allOnes).symm

/-- Settles O29: the message's bytes are fields of the registers, and the transform is a stamp of the masked timestamp. -/
theorem transformHasTheWordForm : Obligations.TransformHasTheWordForm := by
  intro id k0 k1 ver hi lo d
  obtain ⟨hts, -, hpa, h7, -, hpb, -, hlo⟩ := identifierRegistersAreBigEndian id
  refine ⟨?message, ?word, idLo_stamp _ _ _⟩
  case message =>
    simp only [facadeMsg_eq, List.cons.injEq, and_true]
    exact ⟨congrArg _ hpa.symm, h7.symm, congrArg _ hpb.symm, (hlo 1).symm, (hlo 2).symm, (hlo 3).symm, (hlo 4).symm,
      (hlo 5).symm, (hlo 6).symm⟩
  case word =>
    have hmask : mask48 id k0 k1 = d.extractLsb' 0 48 := rfl
    rw [transform, idHi_stamp, ← hts, hmask]
    exact (idHi_masked hi _ ver).symm

/-! ### The commands (R175, R176, R184) -/

theorem exec_encode {s : State} (hok : s.err = false) :
    exec .encode s = .next (deliver (hashFacade s) (transform s.idIn s.k0 s.k1 4)) :=
  acceptCommand_of_ok hok _

theorem exec_decode {s : State} (hok : s.err = false) :
    exec .decode s = .next (deliver (hashFacade s) (transform s.idIn s.k0 s.k1 7)) :=
  acceptCommand_of_ok hok _

theorem exec_gen7 {s : State} (hok : s.err = false) :
    exec .gen7 s = .next (deliver s (stamp s.idIn (s.time.extractLsb' 0 48) 7)) :=
  acceptCommand_of_ok hok _

/-- A word with the opcode of a Facade Transform command is that command, or it is illegal (R93, R97). -/
theorem decode_of_facade_opcode {i : Instr} (hi : i = .encode ∨ i = .decode ∨ i = .gen7) {w : Word}
    (hop : opField w = opField (encode i)) :
    (decode w = .instr i ↔ w.extractLsb' 8 56 = 0) ∧ (w.extractLsb' 8 56 ≠ 0 → ∃ why, decode w = .illegal why) := by
  have hlegal (k : Instr) : LegalAs w k ↔ k = i ∧ argField w = 0 := by
    obtain rfl | rfl | rfl := hi
    all_goals
      simp only [opField, encode] at hop
      cases k <;> simp [LegalAs, opField, hop]
  have hdecode (k : Instr) : decode w = .instr k ↔ k = i ∧ w.extractLsb' 8 56 = 0 := by
    rw [decode_eq_instr_iff, hlegal, extractLsb'_8_56_eq_zero_iff, and_left_comm]
  refine ⟨(hdecode i).trans (and_iff_right rfl), fun hne => ?_⟩
  cases h : decode w with
  | instr k => exact absurd ((hdecode k).mp h).2 hne
  | illegal why => exact ⟨why, rfl⟩

/-! ### `hashFacade` (R175 steps 1 to 4, R182) -/

@[simp] theorem hashFacade_tail (s : State) : (hashFacade s).tail = 0 := rfl

@[simp] theorem hashFacade_nb (s : State) : (hashFacade s).nb = 0 := rfl

@[simp] theorem hashFacade_act (s : State) : (hashFacade s).act = false := rfl

@[simp] theorem hashFacade_dv (s : State) : (hashFacade s).dv = true := rfl

@[simp] theorem hashFacade_len (s : State) : (hashFacade s).len = 9 := by
  rw [hashFacade, finalize_len, absorbBytes_len, facadeMsg_length, startMessage_len]
  rfl

@[simp] theorem hashFacade_err (s : State) : (hashFacade s).err = s.err := by
  rw [hashFacade, finalize_err, absorbBytes_err, startMessage_err]

@[simp] theorem hashFacade_errCode (s : State) : (hashFacade s).errCode = s.errCode := by
  rw [hashFacade, finalize_errCode, absorbBytes_errCode, startMessage_errCode]

@[simp] theorem hashFacade_errInfo (s : State) : (hashFacade s).errInfo = s.errInfo := by
  rw [hashFacade, finalize_errInfo, absorbBytes_errInfo, startMessage_errInfo]

@[simp] theorem hashFacade_port (s : State) : (hashFacade s).port = s.port := by
  rw [hashFacade, finalize_port, absorbBytes_port, startMessage_port]

@[simp] theorem hashFacade_lastRead (s : State) : (hashFacade s).lastRead = s.lastRead := by
  rw [hashFacade, finalize_lastRead, absorbBytes_lastRead, startMessage_lastRead]

/-- The streamed digest is that of the facade message (R142, R182). -/
theorem hashFacade_digest {s : State} (hok : s.err = false) :
    (hashFacade s).digest = sipHash24 (facadeMsg s.idIn) s.k0 s.k1 :=
  ((absorbed_startMessage hok).absorbBytes (facadeMsg s.idIn)).digest_finalize

/-! ### `MOVOI` (R101) -/

/-- `RD <reg>` (R66). -/
theorem serve_rd (r : Reg) (s : State) : serve (rd r) s = .next (answerRead (s, readReg r s)) :=
  congrArg (fun answer => Host.Outcome.next (answerRead answer)) (readPort_offset r s)

/-- `WR <reg>, <value>` when `ERR = 0` (R67). -/
theorem serve_wr {s : State} (hok : s.err = false) (r : Reg) (d : Word) : serve (wr r d) s = writeReg r d s :=
  writePort_of_reg hok r d

end Sys2Proof.Machine

namespace Sys2Proof.Safety

open Sys2Proof.Machine

/-- `MOVOI` copies `ID_OUT` to `ID_IN`, and the host has read its low half last (R101; log 3). -/
theorem serveAll_movoi {s : State} {out : Ident} (hok : s.err = false) (hout : s.idOut = out) :
    serveAll (movoi (idHi out) (idLo out)) s = .next { s with idIn := out, lastRead := some (idLo out) } := by
  subst hout
  rw [movoi, serveAll_cons (serve_rd .idOutHi s), serveAll_cons (serve_rd .idOutLo _),
    serveAll_cons (serve_wr (by exact hok) .idInHi _), serveAll_cons (serve_wr (by exact hok) .idInLo _)]
  exact congrArg (fun id => Host.Outcome.next { s with idIn := id, lastRead := some (idLo s.idOut) }) (setIdLo_setIdHi _ _)

theorem execAll_append {is : List Instr} {s t : State} (h : execAll is s = .next t) (ks : List Instr) :
    execAll (is ++ ks) s = execAll ks t := by
  induction is generalizing s with
  | nil =>
    obtain rfl := Host.Outcome.next.inj h
    rfl
  | cons i rest ih =>
    obtain ⟨u, hu⟩ := exec_answers_next i s
    rw [execAll_cons hu] at h
    rw [List.cons_append, execAll_cons hu, ih h]

/-- The commands of the digest (R175 steps 1 to 4) do what `ENCODE` and `DECODE` do to the datapath. -/
theorem execAll_digest {s : State} (hok : s.err = false) :
    execAll ([Instr.init] ++ (facadeMsg s.idIn).map Instr.absb ++ [Instr.final]) s = .next (hashFacade s) := by
  have habsb := execAll_absb (s := startMessage s) hok rfl (facadeMsg s.idIn)
  rw [List.append_assoc, List.singleton_append, execAll_cons (exec_init hok), execAll_append habsb]
  exact execAll_cons (exec_final (by simpa using hok) (by simp)) []

/-- Settles O31: both sides hash the facade message, and the decoder on a word with `ENCODE`'s opcode. -/
theorem encodeMakesTheFacade : Obligations.EncodeMakesTheFacade :=
  ⟨fun _ hok => ⟨_, execAll_digest hok, exec_encode hok⟩, fun _ hop => decode_of_facade_opcode (.inl rfl) hop⟩

/-- Settles O32: both sides hash the facade message, and the decoder on a word with `DECODE`'s opcode. -/
theorem decodeRecoversTheIdentifier : Obligations.DecodeRecoversTheIdentifier :=
  ⟨fun _ hok => ⟨_, execAll_digest hok, exec_decode hok⟩, fun _ hop => decode_of_facade_opcode (.inr (.inl rfl)) hop⟩

/-- Settles O33: what `hashFacade` leaves in the datapath, and that it and the delivery keep all else. -/
theorem encodeAndDecodeLeaveTheFacadeDigest : Obligations.EncodeAndDecodeLeaveTheFacadeDigest := by
  intro i s t hi hok h
  obtain ⟨out, rfl⟩ : ∃ out, t = deliver (hashFacade s) out := by
    obtain rfl | rfl := hi
    · exact ⟨_, Host.Outcome.next.inj (h.symm.trans (exec_encode hok))⟩
    · exact ⟨_, Host.Outcome.next.inj (h.symm.trans (exec_decode hok))⟩
  simp [hashFacade_digest hok, mask48]

/-- Settles O34: the digests are one state's, the identifiers two stamps that differ in the version. -/
theorem encodeAndDecodeDifferOnlyInTheVersion : Obligations.EncodeAndDecodeDifferOnlyInTheVersion := by
  intro s a b hok ha hb
  obtain rfl := Host.Outcome.next.inj (ha.symm.trans (exec_encode hok))
  obtain rfl := Host.Outcome.next.inj (hb.symm.trans (exec_decode hok))
  refine ⟨rfl, fun k hk => stamp_getElem_of_ne_six _ _ _ _ hk, ?_, version_stamp _ _ _, version_stamp _ _ _⟩
  exact (stamp_six_low _ _ _).trans (stamp_six_low _ _ _).symm

/-- Settles O35: what `GEN7` delivers is a stamp, and the decoder on a word with its opcode. -/
theorem gen7StampsTimeAndSuppliedBytes : Obligations.Gen7StampsTimeAndSuppliedBytes :=
  ⟨fun _ hok => ⟨_, exec_gen7 hok, idHi_stamp _ _ _, idLo_stamp _ _ _⟩,
    fun _ hop => (decode_of_facade_opcode (.inr (.inr rfl)) hop).1⟩

/-- Settles O36: `GEN7` reads `TIME` through its low 48 bits alone. -/
theorem gen7WrapsTheTimeModulo48Bits : Obligations.Gen7WrapsTheTimeModulo48Bits := by
  intro s t x hok h
  obtain rfl := Host.Outcome.next.inj (h.symm.trans (exec_gen7 hok))
  have htoNat (y : Word) : (y.extractLsb' 0 48).toNat = y.toNat % 2 ^ 48 := BitVec.extractLsb'_toNat 0 48 y
  constructor
  · rw [deliver_idOut, timestamp_stamp, htoNat]
  · intro hx
    have hlow : x.extractLsb' 0 48 = s.time.extractLsb' 0 48 := BitVec.eq_of_toNat_eq (by rw [htoNat, htoNat, hx])
    rw [exec_gen7 (s := { s with time := x }) hok, hlow]
    rfl

/-- Settles O38: a delivery writes `ID_OUT` and `OV` only, and in the faulted state nothing is delivered. -/
theorem gen7Frame : Obligations.Gen7Frame := by
  intro s t h
  cases herr : s.err with
  | true =>
    obtain rfl := Host.Outcome.next.inj (h.symm.trans (exec_of_err herr (by decide)))
    simp [herr]
  | false =>
    obtain rfl := Host.Outcome.next.inj (h.symm.trans (exec_gen7 herr))
    simp [herr]

/-- The operations keep a result's metadata: what is delivered is a stamp with version 4 or 7. -/
theorem resultInv_kept : KeptByOperations ResultInv where
  environment _ _ h := h
  operands _ _ _ _ _ h := h
  raiseFault _ h := by simpa [ResultInv] using h
  resetBlock _ := nofun
  startMessage h := h
  absorbByte _ _ h := by simpa [ResultInv] using h
  finalize _ h := h
  deliver id ts _ hver _ _ := ⟨variant_stamp id ts _, by simpa using hver⟩

/-- Settles O49: every operation keeps the metadata, so every step does. -/
theorem everyStepKeepsResultMetadata : Obligations.EveryStepKeepsResultMetadata :=
  fun _ _ => resultInv_kept.step

/-- Settles O37: the host reads the facade back, `MOVOI` makes it the input, and `DECODE` stamps the identifier with its own
timestamp (the host's copy of a read is the model's `lastRead`, log 3). -/
theorem encodeMovoiDecodeReturnsTheIdentifier : Obligations.EncodeMovoiDecodeReturnsTheIdentifier := by
  intro s hok f
  have hencode : serve (command .encode) s = .next (deliver (hashFacade s) f) :=
    (serve_command trivial s).trans (exec_encode hok)
  refine ⟨?hi, ?lo, ?trip⟩
  case hi => exact ⟨_, (serveAll_cons hencode _).trans (serveAll_cons (serve_rd .idOutHi _) []), rfl⟩
  case lo =>
    exact ⟨_, (serveAll_cons hencode _).trans ((serveAll_cons (serve_rd .idOutHi _) _).trans
      (serveAll_cons (serve_rd .idOutLo _) [])), rfl⟩
  case trip =>
    have hok' : (deliver (hashFacade s) f).err = false := by simpa using hok
    obtain ⟨u, hmovoi, hu, hidIn, hk0, hk1⟩ : ∃ u, serveAll (movoi (idHi f) (idLo f)) (deliver (hashFacade s) f) = .next u ∧
        u.err = false ∧ u.idIn = f ∧ u.k0 = s.k0 ∧ u.k1 = s.k1 :=
      ⟨_, serveAll_movoi hok' rfl, by simpa using hok⟩
    have hdecode : serve (command .decode) u = .next (deliver (hashFacade u) (stamp s.idIn (timestamp s.idIn) 7)) := by
      rw [serve_command trivial, exec_decode hu, hidIn, hk0, hk1, transform_transform]
    rw [List.append_assoc, List.singleton_append, serveAll_cons hencode, serveAll_append hmovoi, serveAll_cons hdecode]
    exact ⟨_, rfl, by simpa using hu, by simpa using hidIn, timestamp_stamp _ _ _, facadeMsg_stamp _ _ _, rfl,
      version_stamp _ _ _, variant_stamp _ _ _, fun hver hvar => (stamp_timestamp_eq_self_iff _ _).mpr ⟨hver, hvar⟩⟩

end Sys2Proof.Safety

/-! The statement of spec/42_system.md: the command `RST` (R200). With opcode 0x7F the decoder knows the word 0x7F alone, so any other
such word meets the illegal-word fault when `ERR = 0` and no exit when `ERR = 1`. -/

namespace Sys2Proof.Machine

/-- The write of an illegal word to `CMD` when `ERR = 0` (R97, R212). -/
theorem writePort_cmd_of_illegal {s : State} {w : Word} {why : IllegalWord} (hok : s.err = false)
    (hw : decode w = .illegal why) :
    writePort 0x18 w s = .next { s with err := true, errCode := 1, errInfo := lowField w } := by
  have hreg : writePort 0x18 w s = runCommand w s := writePort_of_reg hok .cmd w
  rw [hreg, runCommand_of_illegal hw, raiseFault_of_ok _ _ hok]
  rfl

/-- A word with `RST`'s opcode decodes to `RST` or to no command (R93). -/
theorem eq_rst_of_decode {w : Word} {i : Instr} (hop : opField w = 0x7F) (h : decode w = .instr i) : i = .rst := by
  obtain ⟨-, hlegal⟩ := legalAs_of_decode h
  cases i with
  | rst => rfl
  | init | absb | absw | final | encode | decode | gen7 => exact absurd (hop.symm.trans hlegal.1) (by decide)

/-- Among the words with `RST`'s opcode, those whose bits 63:8 are 0 are `RST` (R93, R97). -/
theorem decode_eq_rst_iff_of_opcode {w : Word} (hop : opField w = 0x7F) :
    decode w = .instr .rst ↔ w.extractLsb' 8 56 = 0 := by
  rw [decode_eq_instr_iff, extractLsb'_8_56_eq_zero_iff]
  exact and_congr_right fun _ => and_iff_right hop

/-- A word with `RST`'s opcode and a set bit above it is illegal (R97 steps 1 and 3). -/
theorem illegal_of_rst_opcode {w : Word} (hop : opField w = 0x7F) (hne : w.extractLsb' 8 56 ≠ 0) :
    ∃ why, decode w = .illegal why := by
  cases h : decode w with
  | instr i =>
    obtain rfl := eq_rst_of_decode hop h
    exact absurd ((decode_eq_rst_iff_of_opcode hop).mp h) hne
  | illegal why => exact ⟨why, rfl⟩

/-- When `ERR = 1` only `RST`'s word has an effect (R217). -/
theorem writePort_of_err_of_ne_rst {s : State} {w : Word} (herr : s.err = true) (hw : w ≠ 0x7F) (off : Offset) :
    writePort off w s = .next s :=
  (writePort_of_err herr off w).trans (if_neg fun h => hw h.2)

end Sys2Proof.Machine

namespace Sys2Proof.Safety

open Sys2Proof.Machine

/-- Settles O39: `RST` is the block reset, whose elements are all 0; another word with its opcode is illegal, and the faulted state
ignores it. -/
theorem rstResetsEveryStateElement : Obligations.RstResetsEveryStateElement := by
  refine ⟨fun s => ⟨resetBlock s, rfl, allZero_resetBlock s⟩, fun w hop => ?opcode,
    fun s w herr hw => writePort_of_err_of_ne_rst herr hw 0x18⟩
  case opcode =>
    refine ⟨decode_eq_rst_iff_of_opcode hop, fun hne => ?_⟩
    obtain ⟨why, hw⟩ := illegal_of_rst_opcode hop hne
    exact ⟨⟨why, hw⟩, fun s hok => writePort_cmd_of_illegal hok hw⟩

end Sys2Proof.Safety

/-! The statements of spec/60_exceptions.md: which words and which commands fault, what fault entry writes, the record every step keeps,
and the faulted state. Two facts carry them: the fields that make a word legal (R97), and that a legal word is its own low 16 bits, so
the information word of a command fault names the command. -/

namespace Sys2Proof

open Sys2Proof.Machine

/-! ### Which words are legal (R212) -/

/-- The opcodes of format Z (R93). -/
def opcodesZ : List (BitVec 8) := [0x01, 0x04, 0x10, 0x11, 0x12, 0x7F]

/-- The opcodes of the eight commands (R93). -/
def opcodes : List (BitVec 8) := [0x01, 0x02, 0x03, 0x04, 0x10, 0x11, 0x12, 0x7F]

/-- The conditions on `OP`, `ARG` and bits 15:11 under which a word is a command's (R97 step 3). -/
theorem exists_legalAs_iff {w : Word} : (∃ i, LegalAs w i) ↔
    opField w ∈ opcodes ∧ (opField w ∈ opcodesZ → argField w = 0) ∧ (opField w = 0x03 → reservedN w = 0) := by
  constructor
  · rintro ⟨i, h⟩
    cases i with
    | absb imm8 => simp [h.1, opcodes, opcodesZ]
    | absw n => simp [h.1, h.2.1, opcodes, opcodesZ]
    | init | final | encode | decode | gen7 | rst => simp [h.1, h.2, opcodes]
  · rintro ⟨hop, harg, hres⟩
    simp only [opcodes, List.mem_cons, List.not_mem_nil, or_false] at hop
    obtain hop | hop | hop | hop | hop | hop | hop | hop := hop
    · exact ⟨.init, hop, harg (by simp [hop, opcodesZ])⟩
    · exact ⟨.absb _, hop, rfl⟩
    · exact ⟨.absw _, hop, hres hop, rfl⟩
    · exact ⟨.final, hop, harg (by simp [hop, opcodesZ])⟩
    · exact ⟨.encode, hop, harg (by simp [hop, opcodesZ])⟩
    · exact ⟨.decode, hop, harg (by simp [hop, opcodesZ])⟩
    · exact ⟨.gen7, hop, harg (by simp [hop, opcodesZ])⟩
    · exact ⟨.rst, hop, harg (by simp [hop, opcodesZ])⟩

/-- A word decodes to a command exactly when none of R212's four conditions holds of it. -/
theorem exists_decode_iff {w : Word} : (∃ i, decode w = .instr i) ↔
    ¬(reservedHigh w ≠ 0 ∨ opField w ∉ opcodes ∨ (opField w ∈ opcodesZ ∧ argField w ≠ 0) ∨
      (opField w = 0x03 ∧ reservedN w ≠ 0)) := by
  simp only [decode_eq_instr_iff, exists_and_left, exists_legalAs_iff]
  tauto

/-! ### The information word of a command fault (R211) -/

/-- A word with bits 63:16 zero is its low 16 bits. -/
theorem setWidth_lowField {w : Word} (h : reservedHigh w = 0) : (lowField w).setWidth 64 = w := by
  have happend : reservedHigh w ++ lowField w = w.extractLsb' 0 64 :=
    BitVec.extractLsb'_append_extractLsb'_eq_extractLsb' rfl
  rw [h, BitVec.extractLsb'_eq_self] at happend
  exact (BitVec.setWidth_eq_append (by decide)).trans happend

/-- `w[15:0]` of a command's word, read off the word itself. -/
theorem commandInfo_of_decode {w : Word} {i : Instr} (h : decode w = .instr i) : commandInfo i = lowField w := by
  rw [commandInfo, (encodeOfDecodeIsTheWord w i h).2]

/-- The information word of a command's fault decodes to the command. -/
theorem decode_commandInfo {w : Word} {i : Instr} (h : decode w = .instr i) :
    decode ((commandInfo i).setWidth 64) = .instr i := by
  rw [commandInfo_of_decode h, setWidth_lowField (legalAs_of_decode h).1, h]

end Sys2Proof

namespace Sys2Proof.Machine

open Sys2Proof.Safety

/-! ### The information word of a bad access (R211) -/

theorem accessInfo_high (isWrite : Bool) (off : Offset) : (accessInfo isWrite off).extractLsb' 9 7 = 0 := by
  revert off
  cases isWrite <;> decide

theorem accessInfo_offset (isWrite : Bool) (off : Offset) : (accessInfo isWrite off).extractLsb' 0 8 = off := by
  revert off
  cases isWrite <;> decide

/-! ### The fault record (R211 to R215) -/

/-- A code names its cause. -/
theorem FaultCause.code_injective : Function.Injective FaultCause.code := by
  intro c c'
  cases c <;> cases c' <;> decide

/-- A fresh record, by its cause. -/
theorem faultRecordInv_of_record {s : State} {c : FaultCause} {info : BitVec 16}
    (hbadacc : c = .badacc → info.extractLsb' 9 7 = 0 ∧ regAt (info.extractLsb' 0 8) = none)
    (hseq : c = .seq → ∃ i, decode (info.setWidth 64) = .instr i ∧ ((∃ x, i = .absb x) ∨ (∃ n, i = .absw n) ∨ i = .final)) :
    FaultRecordInv { s with err := true, errCode := c.code, errInfo := info } :=
  ⟨fun hcode => hbadacc (FaultCause.code_injective hcode), fun hcode => hseq (FaultCause.code_injective hcode)⟩

/-- What a transaction raises is a record its cause can produce. -/
theorem Raises.faultRecordInv {s : State} {e : PortEvent} {c : FaultCause} {info : BitVec 16} (h : Raises s e c info) :
    FaultRecordInv { s with err := true, errCode := c.code, errInfo := info } := by
  cases h with
  | badRead hoff =>
    exact faultRecordInv_of_record (fun _ => ⟨accessInfo_high false _, by rwa [accessInfo_offset]⟩) nofun
  | badWrite d hoff =>
    exact faultRecordInv_of_record (fun _ => ⟨accessInfo_high true _, by rwa [accessInfo_offset]⟩) nofun
  | illcmd hw => exact faultRecordInv_of_record nofun nofun
  | seq hw hi hact => exact faultRecordInv_of_record nofun fun _ => ⟨_, decode_commandInfo hw, hi⟩

theorem faultRecordInv_raiseFault {s : State} {e : PortEvent} {c : FaultCause} {info : BitVec 16}
    (hraise : Raises s e c info) (h : FaultRecordInv s) : FaultRecordInv (raiseFault c info s) := by
  cases herr : s.err with
  | true => rwa [raiseFault_of_err c info herr]
  | false =>
    rw [raiseFault_of_ok c info herr]
    exact hraise.faultRecordInv

/-- Outside fault entry and reset no operation writes the record. -/
theorem faultRecordInv_kept : KeptByOperations FaultRecordInv where
  environment _ _ h := h
  operands _ _ _ _ _ h := h
  raiseFault := faultRecordInv_raiseFault
  resetBlock _ :=
    ⟨fun hcode => absurd hcode.symm (FaultCause.code_ne_zero _), fun hcode => absurd hcode.symm (FaultCause.code_ne_zero _)⟩
  startMessage h := h
  absorbByte _ _ h := by simpa [FaultRecordInv] using h
  finalize _ h := h
  deliver _ _ _ _ h := h

/-! ### Commands outside a message (R213) -/

/-- The write of a command that needs a message, when `ERR = 0` and `ACT = 0`. -/
theorem writePort_cmd_of_idle {i : Instr} {s : State} {w : Word}
    (hi : (∃ x, i = .absb x) ∨ (∃ n, i = .absw n) ∨ i = .final) (hw : decode w = .instr i) (hok : s.err = false)
    (hidle : s.act = false) : writePort 0x18 w s = .next { s with err := true, errCode := 2, errInfo := lowField w } := by
  rw [writePort_cmd_of_instr hw, exec_of_idle hi hok hidle, commandInfo_of_decode hw, raiseFault_of_ok _ _ hok]
  rfl

/-- The five commands that need no message raise no fault. -/
theorem err_of_exec_without_message {i : Instr} {s t : State}
    (hi : i = .init ∨ i = .encode ∨ i = .decode ∨ i = .gen7 ∨ i = .rst) (hok : s.err = false) (h : exec i s = .next t) :
    t.err = false := by
  obtain rfl | rfl | rfl | rfl | rfl := hi
  · obtain rfl := Host.Outcome.next.inj (h.symm.trans (exec_init hok))
    exact hok
  · obtain rfl := Host.Outcome.next.inj (h.symm.trans (exec_encode hok))
    simpa using hok
  · obtain rfl := Host.Outcome.next.inj (h.symm.trans (exec_decode hok))
    simpa using hok
  · obtain rfl := Host.Outcome.next.inj (h.symm.trans (exec_gen7 hok))
    exact hok
  · obtain rfl : resetBlock s = t := Host.Outcome.next.inj h
    exact resetBlock_err s

/-! ### The faulted state (R217, R218) -/

/-- A read in the faulted state changes no element: a bad one is not recorded (R219). -/
theorem readPort_state_of_err {s : State} (herr : s.err = true) (off : Offset) : (readPort off s).1 = s := by
  obtain ⟨r, -, hread⟩ | ⟨-, hread⟩ := readPort_cases off s
  · rw [hread]
  · rw [hread, raiseFault_of_err _ _ herr]

/-- In the faulted state an event that is no exit leaves the block as it is: a read changes what the host holds (log 3), a write
nothing. -/
theorem serve_sameBlock_of_err {s : State} {e : PortEvent} (herr : s.err = true) (he : ¬Exits e) :
    ∃ t, serve e s = .next t ∧ SameBlock s t := by
  cases e with
  | read off =>
    refine ⟨_, rfl, ?_⟩
    rw [answerRead, readPort_state_of_err herr]
    rfl
  | write off d =>
    refine ⟨s, (writePort_of_err herr off d).trans (if_neg ?_), rfl⟩
    rintro ⟨rfl, rfl⟩
    exact he (.inr rfl)
  | reset => exact absurd (.inl rfl) he

end Sys2Proof.Machine

namespace Sys2Proof.Safety

open Sys2Proof.Machine

/-- Settles O10: the step rests, or it serves an event, which answers a next state. -/
theorem everyStepAnswersANextState : Obligations.EveryStepAnswersANextState := by
  intro s
  obtain ⟨-, hstep⟩ | ⟨e, rest, -, hstep⟩ := step_cases s
  · exact ⟨s, hstep⟩
  · exact hstep ▸ serve_answers_next e _

/-- Settles O45: the record is written when `ERR = 0`, and a second cause leaves the first (R219; log 12). -/
theorem faultEntryWritesTheRecordOnly : Obligations.FaultEntryWritesTheRecordOnly :=
  fun _ info =>
    ⟨fun hok => ⟨raiseFault_of_ok .illcmd info hok, raiseFault_of_ok .seq info hok, raiseFault_of_ok .badacc info hok⟩,
      fun c herr => raiseFault_of_err c info herr⟩

/-- Settles O43: the write of a command that needs a message, and the five that need none. -/
theorem sequenceFaultOnlyWithoutAMessage : Obligations.SequenceFaultOnlyWithoutAMessage :=
  ⟨fun _ _ _ hi hw hok hidle => writePort_cmd_of_idle hi hw hok hidle,
    fun _ _ _ hi hok h => err_of_exec_without_message hi hok h⟩

/-- Settles O44: the four conditions hold of a word exactly when it decodes to no command. -/
theorem illegalWordsFaultAndDoNothingElse : Obligations.IllegalWordsFaultAndDoNothingElse := by
  intro s w hok illegal
  have hlegal : (∃ i, decode w = .instr i) ↔ ¬illegal := exists_decode_iff
  constructor
  · intro hillegal
    cases hw : decode w with
    | instr i => exact absurd hillegal (hlegal.mp ⟨i, hw⟩)
    | illegal why => exact writePort_cmd_of_illegal hok hw
  · intro hillegal
    obtain ⟨i, hw⟩ := hlegal.mpr hillegal
    exact ⟨i, hw, writePort_cmd_of_instr hw s⟩

/-- Settles O46: an event that is no exit keeps the block, and an exit resets it. -/
theorem faultedStateLeavesOnlyByReset : Obligations.FaultedStateLeavesOnlyByReset :=
  fun s _ herr => ⟨serve_sameBlock_of_err herr, fun he => ⟨resetBlock s, serve_of_exits he s, allZero_resetBlock s⟩⟩

/-- Settles O50: every operation keeps the record, so every step does. -/
theorem everyStepKeepsTheFaultRecord : Obligations.EveryStepKeepsTheFaultRecord :=
  fun _ _ => faultRecordInv_kept.step

end Sys2Proof.Safety

/-! The statements of spec/70_reset_and_hazards.md: the two causes of a reset, and the state it leaves. -/

namespace Sys2Proof.Safety

open Sys2Proof.Machine

/-- Settles O41: both causes answer `resetBlock s`, which writes no environment field (R200, R240; log 7). -/
theorem resetLeavesTheEnvironmentAlone : Obligations.ResetLeavesTheEnvironmentAlone :=
  fun s => ⟨serve_of_exits (.inl rfl) s, rfl⟩

/-- Settles O42: the reset state is what a reset makes of itself, and a reset block is all zero. -/
theorem resetStateIsAllZero : Obligations.ResetStateIsAllZero :=
  show AllZero (resetBlock .reset) from allZero_resetBlock .reset

end Sys2Proof.Safety
